-- ==== Sys2Proof/Config.lean ====
section
/-! DEFINITION. What the implementation fixes (spec/00_scope.md section 3, "Implementation parameters").

The spec leaves ONE parameter open, `LATENCY(cmd)`, "read by no rule"; "a model takes no argument for it"
(spec/92_eei_decisions.md, "Open parameters"; log entry 6), so it is not here. The spec yields no arbitrary value anywhere
(spec/93_implementation_defined.md: "Nothing in the engine is `any value` and nothing is `stuck`"), so there is no free
value here either. -/

namespace Sys2Proof

/-- An address value has exactly 16 bytes (R2). -/
abbrev Config.addrBytes : Nat := 16

/-- The greatest prefix length: the domain of a prefix is 0 to 128 inclusive (R5). -/
abbrev Config.maxMask : Nat := 128

/-- The least split target: a target mask is in 1 to 128 (R65). -/
abbrev Config.minTarget : Nat := 1

/-- The greatest integer the 8-bit unsigned operand field `ARG` can express (R41). -/
abbrev Config.maxArg : Nat := 255

end Sys2Proof
end

