-- ==== Sys2Proof/Word.lean ====
section
/-! DEFINITION. The word types of the engine: bytes, address values and command words. -/

namespace Sys2Proof

/-- One unsigned 8-bit byte (R9). -/
abbrev Byte := BitVec 8

/-- An address value as the 128-bit vector `a[127:0]` of R2; its `toNat` is `val(a)` (R4, R35), and bit position `q`
of R3, counted from the leading end, is `a.getMsbD q`. -/
abbrev Addr := BitVec 128

/-- A 32-bit command word, as the host writes it to `CMD` (R40). -/
abbrev CmdWord := BitVec 32

/-- An 8-bit register number of the host port (R30). -/
abbrev RegNum := BitVec 8

end Sys2Proof
end

