-- ==== Sys2Proof/Syntax.lean ====
section
/-! DEFINITION. The six commands of the set SNE-1 (R42), one constructor per row of spec/opcode_table.json. -/

namespace Sys2Proof

/-- A decoded command. The operand of `MASK`, `SUBNET` and `SPLIT` is an integer, as in the source's functions; what the
8-bit field `ARG` can express of it is `Instr.WellFormed` (R41). -/
inductive Instr where
  /-- `MASK p` (R53): the mask pattern of prefix length `p` into `R_ADDR`. -/
  | mask (p : Nat)
  /-- `SUBNET m` (R56): the Subnet of `A_ADDR` at mask `m` into `S`. -/
  | subnet (m : Nat)
  /-- `SUBNETP` (R57): the Subnet of `A_ADDR` at the mask held in `A_PFX` into `S`. -/
  | subnetp
  /-- `SUCC` (R62): the successor of `A_ADDR` into `R_ADDR`. -/
  | succ
  /-- `SPLIT t` (R70): start the child sequence of `S` at target mask `t`, child 0 into `C`. -/
  | split (t : Nat)
  /-- `NEXT` (R73): replace the current child by the following one. -/
  | next
  deriving DecidableEq, Repr

/-- The command's mnemonic, as spec/opcode_table.json spells it. -/
def Instr.mnemonic : Instr → String
  | .mask _ => "MASK"
  | .subnet _ => "SUBNET"
  | .subnetp => "SUBNETP"
  | .succ => "SUCC"
  | .split _ => "SPLIT"
  | .next => "NEXT"

/-- The integer the command puts in its `ARG` field; 0 in the commands that take no operand (R40). -/
def Instr.arg : Instr → Nat
  | .mask p => p
  | .subnet m => m
  | .subnetp => 0
  | .succ => 0
  | .split t => t
  | .next => 0

end Sys2Proof
end

