-- ==== Sys2Proof/WellFormed.lean ====
section
/-! DEFINITION. Which commands the encoding can express: the operand fits the unsigned 8-bit field `ARG` (R41). -/

namespace Sys2Proof

/-- "A prefix integer below 0 or above 255 cannot be encoded" (R41). An operand of 129 to 255 IS well
formed: such values "are encodable and are rejected by the command's own range check ... (not by the decoder)" (R41). An
operand above 255 is in no word; `exec` answers `InvalidMask` for it (DEDUCED, log entry 4, safe). -/
abbrev Instr.WellFormed (i : Instr) : Prop := i.arg ≤ Config.maxArg

end Sys2Proof
end

