-- ==== Sys2Proof/Decode.lean ====
section
/-! DEFINITION. Command decoding (R43), total on all 2^32 words and rejecting by name; then the encoder (R42, R45) and
the opcode table (R42). -/

namespace Sys2Proof

/-- Why a word is no command (R44). Each of them executes as `IllegalCommand` (R83); the names, and which one a word with
several of the faults gets, are the model's (DESIGN CHOICE, log entry 9, safe). -/
inductive Illegal where
  /-- `RSV`, bits 31:16, is not zero. -/
  | reservedBits
  /-- `OPCODE` is outside 0x01 to 0x06. -/
  | unknownOpcode
  /-- `SUBNETP`, `SUCC` or `NEXT` with `ARG` not zero. -/
  | strayArg
  deriving DecidableEq, Repr

/-- `cmd.RSV`, bits 31:16 (R40). -/
def rsvField (w : CmdWord) : BitVec 16 := w.extractLsb' 16 16

/-- `cmd.ARG`, bits 15:8 (R40). -/
def argField (w : CmdWord) : BitVec 8 := w.extractLsb' 8 8

/-- `cmd.OPCODE`, bits 7:0 (R40). -/
def opcodeField (w : CmdWord) : BitVec 8 := w.extractLsb' 0 8

/-- A command that takes no operand: `ARG` must be 0x00 (R40, R43). -/
def noOperand (w : CmdWord) (i : Instr) : Except Illegal Instr :=
  if argField w = 0 then .ok i else .error .strayArg

/-- The decoder of R43. -/
def decode (w : CmdWord) : Except Illegal Instr :=
  if rsvField w = 0 then
    if opcodeField w = 0x01 then .ok (.mask (argField w).toNat)
    else if opcodeField w = 0x02 then .ok (.subnet (argField w).toNat)
    else if opcodeField w = 0x03 then noOperand w .subnetp
    else if opcodeField w = 0x04 then noOperand w .succ
    else if opcodeField w = 0x05 then .ok (.split (argField w).toNat)
    else if opcodeField w = 0x06 then noOperand w .next
    else .error .unknownOpcode
  else .error .reservedBits

/-- What the decoder reads from an instruction whose bits are `w`, numbered as spec/opcode_table.json numbers them. Every
row has 32 bits; a shorter count leaves the bits above it zero. -/
def decodeTableWord (nbits w : Nat) : Option Instr :=
  if nbits ≤ 32 then
    match decode (BitVec.ofNat 32 (w % 2 ^ nbits)) with
    | .ok i => some i
    | .error _ => none
  else none

/-- The `OPCODE` value of a command (R42). -/
def Instr.opcode : Instr → BitVec 8
  | .mask _ => 0x01
  | .subnet _ => 0x02
  | .subnetp => 0x03
  | .succ => 0x04
  | .split _ => 0x05
  | .next => 0x06

/-- The command word: `RSV = 0` above `ARG` above `OPCODE` (R40). It is the command's word when the command is well
formed; a host must not truncate a wider integer into `ARG` (R41). -/
def encode (i : Instr) : CmdWord := 0#16 ++ BitVec.ofNat 8 i.arg ++ i.opcode

/-- One row of the opcode map of R42. -/
structure OpcodeRow where
  mnemonic : String
  pattern : CmdWord
  mask : CmdWord
  deriving DecidableEq, Repr

/-- "A word selects a command exactly when `(word & mask) == match`" (R42). -/
def OpcodeRow.selects (r : OpcodeRow) (w : CmdWord) : Bool := w &&& r.mask == r.pattern

/-- The opcode map of R42, row by row. -/
def opcodeTable : List OpcodeRow :=
  [⟨"MASK", 0x00000001, 0xFFFF00FF⟩,
   ⟨"SUBNET", 0x00000002, 0xFFFF00FF⟩,
   ⟨"SUBNETP", 0x00000003, 0xFFFFFFFF⟩,
   ⟨"SUCC", 0x00000004, 0xFFFFFFFF⟩,
   ⟨"SPLIT", 0x00000005, 0xFFFF00FF⟩,
   ⟨"NEXT", 0x00000006, 0xFFFFFFFF⟩]

/-- The command's own row of the table. -/
def Instr.row : Instr → OpcodeRow
  | .mask _ => ⟨"MASK", 0x00000001, 0xFFFF00FF⟩
  | .subnet _ => ⟨"SUBNET", 0x00000002, 0xFFFF00FF⟩
  | .subnetp => ⟨"SUBNETP", 0x00000003, 0xFFFFFFFF⟩
  | .succ => ⟨"SUCC", 0x00000004, 0xFFFFFFFF⟩
  | .split _ => ⟨"SPLIT", 0x00000005, 0xFFFF00FF⟩
  | .next => ⟨"NEXT", 0x00000006, 0xFFFFFFFF⟩

end Sys2Proof
end

