-- ==== Sys2Proof/Machine/Bytes.lean ====
section
/-! DEFINITION. An address value as its 16 bytes in network order (R2, R35). -/

namespace Sys2Proof.Machine

/-- `a.byte[i] = a[127-8*i : 120-8*i]` for `i` in 0 to 15 (R2): byte 0 is the most significant. -/
def byte (a : Addr) (i : Nat) : Byte := a.extractLsb' (120 - 8 * i) 8

/-- `{f 0, f 1, ..., f (n-1)}`: `n` bytes in network order, `f 0` in the most significant bits. -/
def packBytes : (n : Nat) → (Nat → Byte) → BitVec (8 * n)
  | 0, _ => 0#0
  | n + 1, f => packBytes n f ++ f n

/-- The address value whose byte `i` is `f i` (R2, R35). -/
def ofBytes (f : Nat → Byte) : Addr := packBytes 16 f

/-- `r.byte[i] <- b` for `i` in 0 to 15, the other bytes unchanged: bits `127-8*i` to `120-8*i` take `b`. -/
def setByte (r : Addr) (i : Nat) (b : Byte) : Addr :=
  r &&& ~~~ ((0xff : Addr) <<< (120 - 8 * i)) ||| b.setWidth 128 <<< (120 - 8 * i)

end Sys2Proof.Machine
end

