-- ==== Sys2Proof/Machine/Operands.lean ====
section
/-! DEFINITION. The operand checks of the commands (R82) and the per-byte sweep their masks come from (R50, R51). -/

namespace Sys2Proof.Machine

/-- A prefix or mask integer is in [0,128] (R5, R82). -/
def validMask (m : Nat) : Bool := decide (m ≤ Config.maxMask)

/-- A split target is in [1,128] (R65, R82). -/
def validTarget (t : Nat) : Bool := decide (Config.minTarget ≤ t ∧ t ≤ Config.maxMask)

/-- `hb(p, i) = min(8, max(0, 8*(i+1) - p))`, the host-bit count of byte `i` (R50); subtraction on `Nat` stops at 0. -/
def hostBits (p i : Nat) : Nat := min 8 (8 * (i + 1) - p)

/-- The sweep of R50 over the bytes `n-1` down to 0, the counter holding `c` before byte `n-1`: the portions handed
out, listed in byte order. -/
def sweepFrom : Nat → Nat → List Nat
  | 0, _ => []
  | n + 1, c => sweepFrom n (c - min 8 c) ++ [min 8 c]

/-- The sweep of R50 for prefix length `p`: the counter starts at `128 - p` and the least significant byte is met first
(spec/90_conflicts.md C1). -/
def sweep (p : Nat) : List Nat := sweepFrom Config.addrBytes (Config.maxMask - p)

/-- `hm(p, i) = (1 << hb(p, i)) - 1`, the host-bit byte mask (R51), computed in unbounded integers (R9). -/
def hostMask (p i : Nat) : Byte := BitVec.ofNat 8 ((1 <<< hostBits p i) - 1)

/-- `nm(p, i) = ~hm(p, i)`, the network byte mask (R51). -/
def netMask (p i : Nat) : Byte := ~~~ hostMask p i

end Sys2Proof.Machine
end

