-- ==== Sys2Proof/Machine/Registers.lean ====
section
/-! DEFINITION. The register map of the host port (R10, R30, R36, R37): names, numbers, widths. -/

namespace Sys2Proof.Machine

/-- The thirteen registers of R10. -/
inductive Reg where
  | cmd | status | aAddr | aPfx | rAddr | sBegin | sEnd | sMask | cBegin | cEnd | cMask | cIdx | cCount
  deriving DecidableEq, Repr

/-- The register's number (R10's table). -/
def Reg.number : Reg → RegNum
  | .cmd => 0x00
  | .status => 0x01
  | .aAddr => 0x02
  | .aPfx => 0x03
  | .rAddr => 0x04
  | .sBegin => 0x05
  | .sEnd => 0x06
  | .sMask => 0x07
  | .cBegin => 0x08
  | .cEnd => 0x09
  | .cMask => 0x0A
  | .cIdx => 0x0B
  | .cCount => 0x0C

/-- The register a number names; `none` for the unimplemented numbers 0x0D to 0xFF (R30, R36). -/
def regOf (n : RegNum) : Option Reg :=
  match n.toNat with
  | 0x00 => some .cmd
  | 0x01 => some .status
  | 0x02 => some .aAddr
  | 0x03 => some .aPfx
  | 0x04 => some .rAddr
  | 0x05 => some .sBegin
  | 0x06 => some .sEnd
  | 0x07 => some .sMask
  | 0x08 => some .cBegin
  | 0x09 => some .cEnd
  | 0x0A => some .cMask
  | 0x0B => some .cIdx
  | 0x0C => some .cCount
  | _ => none

/-- The register's width; every access moves exactly it (R37). -/
def Reg.width : Reg → Nat
  | .cmd => 32
  | .status => 32
  | .aAddr => 128
  | .aPfx => 8
  | .rAddr => 128
  | .sBegin => 128
  | .sEnd => 128
  | .sMask => 8
  | .cBegin => 128
  | .cEnd => 128
  | .cMask => 8
  | .cIdx => 128
  | .cCount => 129

/-- The width a transaction moves. DESIGN CHOICE (log entry 3, safe): the spec gives an unimplemented register number no
width; 129 bits, the widest register's, stand for it. Nothing depends on it: such a write is ignored and such a read
gives 0 (R36). -/
def widthOf : Option Reg → Nat
  | some r => r.width
  | none => 129

/-- The width of the transaction `RegRead(n)` or `RegWrite(n, v)` (R37). -/
abbrev portWidth (n : RegNum) : Nat := widthOf (regOf n)

end Sys2Proof.Machine
end

