-- ==== Sys2Proof/Machine/State.lean ====
section
/-! DEFINITION. The engine's state (R10), the host's side of its port, the reset state (R96), and the reasons a step
can stop. -/

namespace Sys2Proof.Machine

/-- One event at the engine's boundary, in the total order of R33: the two host transactions and reset (R31, R32, R95). A
write carries exactly the register's width (R37), so no narrower or wider write can be expressed. -/
inductive Event where
  /-- `RegRead(n)` (R31). -/
  | regRead (n : RegNum)
  /-- `RegWrite(n, v)` (R32); with `n = 0x00` it issues the command `v`. -/
  | regWrite (n : RegNum) (v : BitVec (portWidth n))
  /-- The reset input (R95). -/
  | reset
  deriving DecidableEq, Repr

/-- What a `RegRead(n)` returned to the host: the register's number and its value at the register's full width (R31). -/
structure Reply where
  number : RegNum
  value : BitVec (portWidth number)
  deriving DecidableEq, Repr

/-- The machine: the thirteen stored registers and fields of R10 (`STATUS` and `C_COUNT` hold no bits of their own), then
the MODEL'S OWN two fields for the host's side of the port (log entries 1 and 2). -/
structure State where
  /-- `CMD` (R22): the last command word written. -/
  cmd : BitVec 32
  /-- `ERR`, seen as `STATUS[3:0]` (R23, R80): the completion code of the most recent command. -/
  err : BitVec 4
  /-- `A_ADDR` (R11): the operand address value. -/
  aAddr : Addr
  /-- `A_PFX` (R12): the operand prefix length, 0 to 255. -/
  aPfx : BitVec 8
  /-- `R_ADDR` (R13): the result of the latest successful `MASK` or `SUCC`. -/
  rAddr : Addr
  /-- `S_BEGIN` (R15). -/
  sBegin : Addr
  /-- `S_END` (R16). -/
  sEnd : Addr
  /-- `S_MASK` (R14). -/
  sMask : BitVec 8
  /-- `C_BEGIN` (R18). -/
  cBegin : Addr
  /-- `C_END` (R19). -/
  cEnd : Addr
  /-- `C_MASK` (R17). -/
  cMask : BitVec 8
  /-- `C_IDX` (R20): the index of the current child. -/
  cIdx : BitVec 128
  /-- `DEPTH`, seen as `STATUS[15:8]` (R21): the target mask less the parent's mask. -/
  depth : BitVec 8
  /-- MODEL'S OWN, DESIGN CHOICE (log entry 1): the transactions the host will make, in their order (R33). "What executes
  next is host state, outside the engine" (R24). -/
  requests : List Event
  /-- MODEL'S OWN, DESIGN CHOICE (log entry 2): what the latest transaction returned to the host; `none` where it returned
  nothing. -/
  reply : Option Reply
  deriving DecidableEq, Repr

/-- The engine right after reset (R96), the host having asked for nothing yet. -/
def State.reset : State where
  cmd := 0
  err := 0
  aAddr := 0
  aPfx := 128
  rAddr := 0
  sBegin := 0
  sEnd := 0
  sMask := 128
  cBegin := 0
  cEnd := 0
  cMask := 128
  cIdx := 0
  depth := 0
  requests := []
  reply := none

/-- Why the machine would stop with a fault. There is NO reason: the spec's errors are completion codes in `STATUS.ERR`
after which the machine goes on (R84, R86), "nothing hangs and nothing is undefined inside the engine"
(spec/00_scope.md section 6), so this type has no constructor and no step can fault (DEDUCED, log
entry 5). -/
inductive Fault where
  deriving DecidableEq, Repr

/-- Why an instruction would have no meaning. -/
inductive Refusal where
  /-- Raised only by an arm of `exec` whose instruction has no meaning yet; no arm is one, so nothing raises it. Safe: the
  model would stop where the hardware goes on. -/
  | notModelled (mnemonic : String)
  deriving DecidableEq, Repr

end Sys2Proof.Machine
end

