-- ==== Sys2Proof/Machine/Ops.lean ====
section
/-! DEFINITION. The named operations over the state, how a command completes, and how an error is taken (R84).

There is no return from an error and nothing to restore (R87), so no operation beside `raise` undoes it. -/

namespace Sys2Proof.Machine

/-- A Subnet: the triple `(mask, begin, end)` of R6; `mask` is also the prefix-length field of both addresses. -/
structure Subnet where
  mask : Nat
  first : Addr
  last : Addr
  deriving DecidableEq, Repr

/-- The error kinds of R80. -/
inductive ErrKind where
  /-- Code 1: belongs to the host's `parseAddress`; no command raises it (R81). -/
  | invalidAddress
  /-- Code 2 (R82). -/
  | invalidMask
  /-- Code 3 (R85). -/
  | maskNotDeepenable
  /-- Code 4 (R83). -/
  | illegalCommand
  /-- Code 5 (R89). -/
  | endOfSequence
  deriving DecidableEq, Repr

/-- The completion code of an error (R80). -/
def errCode : ErrKind → BitVec 4
  | .invalidAddress => 1
  | .invalidMask => 2
  | .maskNotDeepenable => 3
  | .illegalCommand => 4
  | .endOfSequence => 5

/-- `CMD <- w` (R22). -/
def setCmd (w : CmdWord) (s : State) : State := { s with cmd := w }

/-- `STATUS.ERR <- c` (R23). -/
def setErr (c : BitVec 4) (s : State) : State := { s with err := c }

/-- `A_ADDR <- a` (R11). -/
def setAAddr (a : Addr) (s : State) : State := { s with aAddr := a }

/-- `A_PFX <- p` (R12). -/
def setAPfx (p : BitVec 8) (s : State) : State := { s with aPfx := p }

/-- `R_ADDR <- a` (R13). -/
def setRAddr (a : Addr) (s : State) : State := { s with rAddr := a }

/-- `S_BEGIN`, `S_END` and `S_MASK` take the Subnet `S`, whole (R14, R15, R16). -/
def setSubnet (S : Subnet) (s : State) : State :=
  { s with sBegin := S.first, sEnd := S.last, sMask := BitVec.ofNat 8 S.mask }

/-- `C_BEGIN`, `C_END` and `C_MASK` take child 0, `C_IDX <- 0` and `DEPTH <- d` (R17 to R21). -/
def setSequence (C : Subnet) (d : Nat) (s : State) : State :=
  { s with
    cBegin := C.first, cEnd := C.last, cMask := BitVec.ofNat 8 C.mask, cIdx := 0, depth := BitVec.ofNat 8 d }

/-- `C_BEGIN` and `C_END` take the following child and `C_IDX <- C_IDX + 1` (R18, R19, R20). -/
def setNextChild (b e : Addr) (s : State) : State := { s with cBegin := b, cEnd := e, cIdx := s.cIdx + 1 }

/-- The host's remaining transactions (log entry 1). -/
def setRequests (es : List Event) (s : State) : State := { s with requests := es }

/-- What the transaction returns to the host (log entry 2). -/
def setReply (r : Option Reply) (s : State) : State := { s with reply := r }

/-- `ok`: the command ends normally, `STATUS.ERR <- 0` after its writes (spec/00_scope.md section 5). -/
def ok (s : State) : Host.Outcome State Fault Refusal := .next (setErr 0 s)

/-- `raise E`: the command ends here, `STATUS.ERR <- code(E)` and nothing else is written (R84). It is no trap: nothing is
saved, control goes nowhere and no mode changes (R84, R86), so the outcome is a next state. -/
def raise (e : ErrKind) (s : State) : Host.Outcome State Fault Refusal := .next (setErr (errCode e) s)

/-- Reset puts every piece of the engine's state to its reset value at once (R95, R96); the host's own remaining
transactions are no state of the engine. -/
def resetEngine (s : State) : State := { State.reset with requests := s.requests }

end Sys2Proof.Machine
end

