-- ==== Sys2Proof/Machine/Mask.lean ====
section
/-! DEFINITION. Mask derivation: `MASK` (spec/40_mask.md). -/

namespace Sys2Proof.Machine

/-- `maskAddress(p)`: byte `i` is `nm(p, i)` (R52). -/
def maskAddress (p : Nat) : Addr := ofBytes (netMask p)

/-- `MASK p` (R53). -/
def execMask (p : Nat) (s : State) : Host.Outcome State Fault Refusal :=
  if validMask p then ok (setRAddr (maskAddress p) s) else raise .invalidMask s

end Sys2Proof.Machine
end

