-- ==== Sys2Proof/Machine/Flags.lean ====
section
/-! DEFINITION. The computed views: `LAST` and `STATUS` (R23), `C_COUNT` (R21). They hold no bits of their own (R10). -/

namespace Sys2Proof.Machine

/-- `STATUS.LAST = (C_IDX == (1 << DEPTH) - 1)`, computed in unbounded integers (R23, R9): the current child is the last
of its sequence. -/
def isLast (s : State) : Bool := s.cIdx.toNat == (1 <<< s.depth.toNat) - 1

/-- `STATUS` (R23): `{0[31:16], DEPTH[15:8], 0[7:5], LAST[4], ERR[3:0]}`. -/
def status (s : State) : BitVec 32 := 0#16 ++ s.depth ++ 0#3 ++ BitVec.ofBool (isLast s) ++ s.err

/-- `C_COUNT = 1 << DEPTH` at its width of 129 bits (R21). -/
def childCount (s : State) : BitVec 129 := 1#129 <<< s.depth.toNat

end Sys2Proof.Machine
end

