-- ==== Sys2Proof/Machine/Subnet.lean ====
section
/-! DEFINITION. Subnet construction: `SUBNET` and `SUBNETP` (spec/41_subnet.md). -/

namespace Sys2Proof.Machine

/-- `begin.byte[i] = a.byte[i] & nm(m, i)` (R55). -/
def rangeBegin (a : Addr) (m : Nat) : Addr := ofBytes fun i => byte a i &&& netMask m i

/-- `end.byte[i] = a.byte[i] | hm(m, i)` (R55). -/
def rangeEnd (a : Addr) (m : Nat) : Addr := ofBytes fun i => byte a i ||| hostMask m i

/-- The Subnet of the range of `a` at mask `m`, the mask being in [0,128] (R55). -/
def rangeOf (a : Addr) (m : Nat) : Subnet := ⟨m, rangeBegin a m, rangeEnd a m⟩

/-- `subnetFromAddress(a, m)` (R55): "fails with `InvalidMask` when `mask` is outside [0,128]". -/
def subnetFromAddress (a : Addr) (m : Nat) : Except ErrKind Subnet :=
  if validMask m then .ok (rangeOf a m) else .error .invalidMask

/-- The shared work of `SUBNET` and `SUBNETP`: `S` takes the Subnet of `A_ADDR` at mask `m`, or the command fails and `S`
keeps its previous Subnet whole (R56). -/
def buildSubnet (m : Nat) (s : State) : Host.Outcome State Fault Refusal :=
  match subnetFromAddress s.aAddr m with
  | .ok S => ok (setSubnet S s)
  | .error e => raise e s

/-- `SUBNET m` (R56). -/
def execSubnet (m : Nat) (s : State) : Host.Outcome State Fault Refusal := buildSubnet m s

/-- `SUBNETP` (R57): the mask is the value `A_PFX` holds, checked now that it is used (R12). -/
def execSubnetp (s : State) : Host.Outcome State Fault Refusal := buildSubnet s.aPfx.toNat s

end Sys2Proof.Machine
end

