-- ==== Sys2Proof/Machine/Successor.lean ====
section
/-! DEFINITION. The successor with byte-wise carry: `SUCC` (spec/42_successor.md). -/

namespace Sys2Proof.Machine

/-- The loop of R60 over the bytes `n-1` down to 0: byte `n-1` is incremented modulo 256; if it did not become 0x00 the
loop stops, else the carry goes on to the next more significant byte. After byte 0 the carry is discarded (R61). -/
def carryChain (a : Addr) : Nat → Addr → Addr
  | 0, r => r
  | n + 1, r =>
    let b := byte a n + 1
    let r' := setByte r n b
    if b = 0 then carryChain a n r' else r'

/-- `successor(a)` (R60): from byte 15 toward byte 0. -/
def successor (a : Addr) : Addr := carryChain a Config.addrBytes a

/-- `SUCC` (R62). -/
def execSucc (s : State) : Host.Outcome State Fault Refusal := ok (setRAddr (successor s.aAddr) s)

end Sys2Proof.Machine
end

