-- ==== Sys2Proof/Machine/Split.lean ====
section
/-! DEFINITION. Subnet splitting: `SPLIT` and `NEXT`, and the source's `splitSubnet` they deliver one child at a time
(spec/43_split.md). -/

namespace Sys2Proof.Machine

/-- The two checks of `splitSubnet`, in the order R65 and R88 give: the error, if any, of splitting a Subnet of mask `m`
at target `t`. -/
def splitError (m t : Nat) : Option ErrKind :=
  if ¬ validTarget t then some .invalidMask
  else if m > t then some .maskNotDeepenable
  else none

/-- `child[k]` of R65: child 0 is `subnetFromAddress(S.begin, t)`, each other one
`subnetFromAddress(successor(child[k-1].end), t)`; neither call can fail, `t` being in 1 to 128. -/
def splitChild (S : Subnet) (t : Nat) : Nat → Subnet
  | 0 => rangeOf S.first t
  | k + 1 => rangeOf (successor (splitChild S t k).last) t

/-- `count = 2^(t - S.mask)`, exact (R67). -/
def splitCount (S : Subnet) (t : Nat) : Nat := 2 ^ (t - S.mask)

/-- The source's `splitSubnet(S, t)` (R65): the whole ordered sequence of children, or a failure. No command computes it;
`SPLIT` and `NEXT` deliver it (R71). -/
def splitSubnet (S : Subnet) (t : Nat) : Except ErrKind (List Subnet) :=
  match splitError S.mask t with
  | some e => .error e
  | none => .ok ((List.range (splitCount S t)).map (splitChild S t))

/-- `SPLIT t` (R70). -/
def execSplit (t : Nat) (s : State) : Host.Outcome State Fault Refusal :=
  match splitError s.sMask.toNat t with
  | some e => raise e s
  | none => ok (setSequence (rangeOf s.sBegin t) (t - s.sMask.toNat) s)

/-- `NEXT` (R73). -/
def execNext (s : State) : Host.Outcome State Fault Refusal :=
  if isLast s then raise .endOfSequence s
  else
    let n := successor s.cEnd
    ok (setNextChild (rangeBegin n s.cMask.toNat) (rangeEnd n s.cMask.toNat) s)

end Sys2Proof.Machine
end

