-- ==== Sys2Proof/Machine/Dispatch.lean ====
section
/-! DEFINITION. One arm per command (R42): a decoded command executes by its own meaning. -/

namespace Sys2Proof.Machine

def exec (i : Instr) (s : State) : Host.Outcome State Fault Refusal :=
  match i with
  | .mask p => Sys2Proof.Machine.execMask p s
  | .subnet m => Sys2Proof.Machine.execSubnet m s
  | .subnetp => Sys2Proof.Machine.execSubnetp s
  | .succ => Sys2Proof.Machine.execSucc s
  | .split t => Sys2Proof.Machine.execSplit t s
  | .next => Sys2Proof.Machine.execNext s

end Sys2Proof.Machine
end

