-- ==== Sys2Proof/Machine/Port.lean ====
section
/-! DEFINITION. The host port: register reads and writes, issuing a command, reset, and serving the host's next
transaction (spec/20_memory.md, R95). -/

namespace Sys2Proof.Machine

/-- The value a register read returns, at its full width; `STATUS` and `C_COUNT` are computed (R31), and an unimplemented
number reads 0 (R36). -/
def readReg : (r : Option Reg) → State → BitVec (widthOf r)
  | some .cmd, s => s.cmd
  | some .status, s => status s
  | some .aAddr, s => s.aAddr
  | some .aPfx, s => s.aPfx
  | some .rAddr, s => s.rAddr
  | some .sBegin, s => s.sBegin
  | some .sEnd, s => s.sEnd
  | some .sMask, s => s.sMask
  | some .cBegin, s => s.cBegin
  | some .cEnd, s => s.cEnd
  | some .cMask, s => s.cMask
  | some .cIdx, s => s.cIdx
  | some .cCount, s => childCount s
  | none, _ => 0

/-- The engine executes a word as a command (R32): decoding comes before anything else in the command (R43), and a word
the decoder rejects raises `IllegalCommand` (R83). -/
def execWord (w : CmdWord) (s : State) : Host.Outcome State Fault Refusal :=
  match decode w with
  | .ok i => exec i s
  | .error _ => raise .illegalCommand s

/-- What a register write does. `CMD` stores the word, whatever it is, and issues it (R22, R32); `A_ADDR` and `A_PFX` take
the value (R32); a write to a read-only register or an unimplemented number is ignored (R36). -/
def writeReg : (r : Option Reg) → BitVec (widthOf r) → State → Host.Outcome State Fault Refusal
  | some .cmd, w, s => execWord w (setCmd w s)
  | some .aAddr, a, s => .next (setAAddr a s)
  | some .aPfx, p, s => .next (setAPfx p s)
  | some .status, _, s => .next s
  | some .rAddr, _, s => .next s
  | some .sBegin, _, s => .next s
  | some .sEnd, _, s => .next s
  | some .sMask, _, s => .next s
  | some .cBegin, _, s => .next s
  | some .cEnd, _, s => .next s
  | some .cMask, _, s => .next s
  | some .cIdx, _, s => .next s
  | some .cCount, _, s => .next s
  | none, _, s => .next s

/-- `RegRead(n)` (R31): the register's current value; no state of the engine changes. -/
def regRead (n : RegNum) (s : State) : BitVec (portWidth n) := readReg (regOf n) s

/-- `RegWrite(n, v)` (R32, R36). -/
def regWrite (n : RegNum) (v : BitVec (portWidth n)) (s : State) : Host.Outcome State Fault Refusal :=
  writeReg (regOf n) v s

/-- One event of the total order of R33, whole, on the state the previous one left. -/
def serve : Event → State → Host.Outcome State Fault Refusal
  | .regRead n, s => .next (setReply (some ⟨n, regRead n s⟩) s)
  | .regWrite n v, s => regWrite n v (setReply none s)
  | .reset, s => .next (resetEngine s)

/-- The host's next event is served (R33). With none the engine is idle and holds its registers (R93): "nothing in the
engine happens except in response to a host transaction or reset" (R90); that such a step answers the same state is DEDUCED
(log entry 5, safe). -/
def serveNext (s : State) : Host.Outcome State Fault Refusal :=
  match s.requests with
  | [] => .next s
  | e :: es => serve e (setRequests es s)

/-- The event that issues the command word `w` (R32). -/
def issue (w : CmdWord) : Event := .regWrite 0x00 w

/-- The host asks, next, for the word of `nbits` bits `w` to be issued: the word is put before its other requests. The
engine fetches nothing (R24); this stands for the host's `RegWrite` to `CMD` (log entry 1). -/
def requestWord (nbits w : Nat) (s : State) : State :=
  setRequests (issue (BitVec.ofNat 32 (w % 2 ^ nbits)) :: s.requests) s

end Sys2Proof.Machine
end

