-- ==== Sys2Proof/Machine/Step.lean ====
section
/-! DEFINITION. One step: the host's next event (R33), and how a word is given to the machine. -/

namespace Sys2Proof.Machine

/-- One step of the machine. -/
def step (s : State) : Host.Outcome State Fault Refusal := Sys2Proof.Machine.serveNext s

/-- The state in which the very next step runs the word of `nbits` bits `w`. -/
def State.withFetchWord (s : State) (nbits w : Nat) : State := Sys2Proof.Machine.requestWord nbits w s

end Sys2Proof.Machine
end

