-- ==== Sys2Proof/Machine/Expanded.lean ====
section
/-! DEFINITION. The expanded textual form of an address value (R7): the spec's way of writing addresses. It is not an
operation of the engine ("the engine does not produce text", R7). -/

namespace Sys2Proof.Machine

/-- A lowercase hexadecimal digit (R7). -/
def hexDigit (d : Nat) : Char := if d < 10 then Char.ofNat (48 + d) else Char.ofNat (87 + d)

/-- Group `g`: the 4 digits of `a.byte[2g] * 256 + a.byte[2g+1]`, most significant first, leading zeros kept (R7). -/
def hexGroup (a : Addr) (g : Nat) : List Char :=
  let n := (byte a (2 * g)).toNat * 256 + (byte a (2 * g + 1)).toNat
  [hexDigit (n / 4096), hexDigit (n / 256 % 16), hexDigit (n / 16 % 16), hexDigit (n % 16)]

/-- `xfmt(a)` as a list of characters: 8 groups separated by 7 colons (R7). -/
def xfmt (a : Addr) : List Char := List.intercalate [':'] ((List.range 8).map (hexGroup a))

end Sys2Proof.Machine
end

