-- ==== Sys2Proof/Machine/HostPrograms.lean ====
section
/-! DEFINITION. The spec's textual host programs (R45) and pseudo-commands (R46), as the events they stand for. They are
the host's, outside the engine; the loop of `DRAIN` is host control flow (R46, R75). -/

namespace Sys2Proof.Machine

/-- The state after the host makes one transaction, or resets the engine, and it ends (R33). -/
def transact (e : Event) (s : State) : State :=
  match serve e s with
  | .next t => t
  | .fault _ => s
  | .refused _ => s

/-- A sequence of events, "one after another in that order, each on the state the previous one left" (R33). -/
def serveAll : List Event → State → State
  | [], s => s
  | e :: es, s => serveAll es (transact e s)

/-- One line of a host program (R45). -/
inductive Line where
  | wrAAddr (a : Addr)
  | wrAPfx (n : BitVec 8)
  | rd (r : Reg)
  | mask (p : BitVec 8)
  | subnet (m : BitVec 8)
  | subnetp
  | succ
  | split (t : BitVec 8)
  | next
  | cmd (w : CmdWord)
  deriving DecidableEq, Repr

/-- `(arg << 8) | opcode` (R45). -/
def operandWord (arg : BitVec 8) (opcode : CmdWord) : CmdWord := arg.setWidth 32 <<< 8 ||| opcode

/-- The transaction a line stands for (R45). -/
def lineEvent : Line → Event
  | .wrAAddr a => .regWrite 0x02 a
  | .wrAPfx n => .regWrite 0x03 n
  | .rd r => .regRead r.number
  | .mask p => issue (operandWord p 0x01)
  | .subnet m => issue (operandWord m 0x02)
  | .subnetp => issue 0x00000003
  | .succ => issue 0x00000004
  | .split t => issue (operandWord t 0x05)
  | .next => issue 0x00000006
  | .cmd w => issue w

/-- `LDA <xfmt>/<n>` (R46). -/
def lda (a : Addr) (n : BitVec 8) : List Line := [.wrAAddr a, .wrAPfx n]

/-- `INFO` (R46); the host gives `MASK` the value `n` it last wrote to `A_PFX`. -/
def info (n : BitVec 8) : List Line := [.mask n, .subnetp, .rd .rAddr, .rd .sBegin, .rd .sEnd, .rd .sMask]

/-- `DRAIN` (R46), for at most `fuel` children (DESIGN CHOICE, log entry 8, safe: the host's loop is bounded): the children
read, first to last, and the state left. -/
def drain : Nat → State → List (Addr × Addr) × State
  | 0, s => ([], s)
  | fuel + 1, s =>
    let child : Addr × Addr := (regRead 0x08 s, regRead 0x09 s)
    let s' := serveAll (List.map lineEvent [.rd .cBegin, .rd .cEnd, .rd .status]) s
    if BitVec.getLsbD (regRead 0x01 s) 4 then ([child], s')
    else
      let rest := drain fuel (transact (lineEvent .next) s')
      (child :: rest.1, rest.2)

/-- `SPLITALL <t>` (R46), for at most `fuel` children: nothing if the `SPLIT` failed, else the count and the ordered
children; and the state left. -/
def splitAll (fuel : Nat) (t : BitVec 8) (s : State) : Option (BitVec 129 × List (Addr × Addr)) × State :=
  let s1 := serveAll (List.map lineEvent [.split t, .rd .status]) s
  if BitVec.extractLsb' 0 4 (regRead 0x01 s1) = 0 then
    let count : BitVec 129 := regRead 0x0C s1
    let rest := drain fuel (transact (lineEvent (.rd .cCount)) s1)
    (some (count, rest.1), rest.2)
  else (none, s1)

end Sys2Proof.Machine
end

