-- ==== Sys2Proof/Safety.lean ====
section
/-! DEFINITION. What claims about the machine are stated in: valid Subnets (R6), the state invariants (R28), which events
start, advance or leave alone a child sequence (R71, R76), what each command reads and writes (R26). -/

namespace Sys2Proof.Machine

/-- The invariants a Subnet has by itself (R6, R28 (S2)): its addresses agree at every bit position below the mask, and
every position from the mask on is 0 in `begin` and 1 in `end`. -/
structure Subnet.Valid (S : Subnet) : Prop where
  mask_le : S.mask ≤ 128
  network : ∀ q, q < S.mask → S.first.getMsbD q = S.last.getMsbD q
  host : ∀ q, S.mask ≤ q → q < 128 → S.first.getMsbD q = false ∧ S.last.getMsbD q = true

/-- An address lies in the Subnet's range, by the order of R4. -/
abbrev Subnet.Contains (S : Subnet) (a : Addr) : Prop := S.first.toNat ≤ a.toNat ∧ a.toNat ≤ S.last.toNat

/-- The Subnet in the registers `S` (R14 to R16). -/
def subnetOf (s : State) : Subnet := ⟨s.sMask.toNat, s.sBegin, s.sEnd⟩

/-- The child in the registers `C` (R17 to R19). -/
def childOf (s : State) : Subnet := ⟨s.cMask.toNat, s.cBegin, s.cEnd⟩

/-- The `DEPTH` bits of `C_BEGIN` at positions `C_MASK - DEPTH` to `C_MASK - 1`, as an unsigned number with position
`C_MASK - DEPTH` most significant (R28 (C4)). -/
def indexBits (s : State) : Nat := s.cBegin.toNat / 2 ^ (128 - s.cMask.toNat) % 2 ^ s.depth.toNat

/-- The state invariants of R28. -/
structure State.Inv (s : State) : Prop where
  /-- (S1) and (S2). -/
  subnet : (subnetOf s).Valid
  /-- (C1), the lower bound. -/
  cMask_pos : 1 ≤ s.cMask.toNat
  /-- (C1), the depth. -/
  depth_le : s.depth.toNat ≤ s.cMask.toNat
  /-- (C1), the upper bound, and (C2). -/
  child : (childOf s).Valid
  /-- (C3). -/
  cIdx_le : s.cIdx.toNat ≤ 2 ^ s.depth.toNat - 1
  /-- (C4). -/
  index : indexBits s = s.cIdx.toNat
  /-- (E1). -/
  err_code : s.err = 0 ∨ s.err = 2 ∨ s.err = 3 ∨ s.err = 4 ∨ s.err = 5

/-- The word a register write issues as a command. -/
def issuedWord : (r : Option Reg) → BitVec (widthOf r) → Option CmdWord
  | some .cmd, w => some w
  | _, _ => none

/-- The command an event executes, if the decoder accepts its word. -/
def commandOf : Event → Option Instr
  | .regRead _ => none
  | .regWrite n v =>
    match issuedWord (regOf n) v with
    | some w =>
      match decode w with
      | .ok i => some i
      | .error _ => none
    | none => none
  | .reset => none

/-- The event starts the child sequence anew: a `SPLIT` that succeeds (R70), or reset (R96). -/
def startsSequence (e : Event) (s : State) : Bool :=
  e == .reset ||
    match commandOf e with
    | some (.split t) => splitError s.sMask.toNat t == none
    | _ => false

/-- The event is a `NEXT` that succeeds (R73). -/
def advances (e : Event) (s : State) : Bool := commandOf e == some .next && !isLast s

/-- No event of the sequence starts the child sequence anew. -/
def keepsSequence : List Event → State → Bool
  | [], _ => true
  | e :: es, s => !startsSequence e s && keepsSequence es (transact e s)

/-- How many `NEXT` commands of the sequence of events succeed. -/
def nextsDone : List Event → State → Nat
  | [], _ => 0
  | e :: es, s => (if advances e s then 1 else 0) + nextsDone es (transact e s)

/-- The two states agree on the registers the command reads (the "reads" column of R26). -/
def sameReads : Instr → State → State → Prop
  | .mask _, _, _ => True
  | .subnet _, s, t => s.aAddr = t.aAddr
  | .subnetp, s, t => s.aAddr = t.aAddr ∧ s.aPfx = t.aPfx
  | .succ, s, t => s.aAddr = t.aAddr
  | .split _, s, t => s.sBegin = t.sBegin ∧ s.sMask = t.sMask
  | .next, s, t => s.cEnd = t.cEnd ∧ s.cMask = t.cMask ∧ s.cIdx = t.cIdx ∧ s.depth = t.depth

/-- The two states agree on the registers the command writes when it succeeds (the "writes on success" column of
R26). -/
def sameWrites : Instr → State → State → Prop
  | .mask _, s, t => s.rAddr = t.rAddr
  | .subnet _, s, t => s.sBegin = t.sBegin ∧ s.sEnd = t.sEnd ∧ s.sMask = t.sMask
  | .subnetp, s, t => s.sBegin = t.sBegin ∧ s.sEnd = t.sEnd ∧ s.sMask = t.sMask
  | .succ, s, t => s.rAddr = t.rAddr
  | .split _, s, t =>
    s.cBegin = t.cBegin ∧ s.cEnd = t.cEnd ∧ s.cMask = t.cMask ∧ s.cIdx = t.cIdx ∧ s.depth = t.depth
  | .next, s, t => s.cBegin = t.cBegin ∧ s.cEnd = t.cEnd ∧ s.cIdx = t.cIdx

/-- What `t` has in place of `s` after the command: the registers of its "writes on success" column and `ERR` are those of
`t`, every other one is that of `s` (R26). -/
def onlyWrites : Instr → State → State → State
  | .mask _, s, t => { s with rAddr := t.rAddr, err := t.err }
  | .subnet _, s, t => { s with sBegin := t.sBegin, sEnd := t.sEnd, sMask := t.sMask, err := t.err }
  | .subnetp, s, t => { s with sBegin := t.sBegin, sEnd := t.sEnd, sMask := t.sMask, err := t.err }
  | .succ, s, t => { s with rAddr := t.rAddr, err := t.err }
  | .split _, s, t =>
    { s with
      cBegin := t.cBegin, cEnd := t.cEnd, cMask := t.cMask, cIdx := t.cIdx, depth := t.depth, err := t.err }
  | .next, s, t => { s with cBegin := t.cBegin, cEnd := t.cEnd, cIdx := t.cIdx, err := t.err }

end Sys2Proof.Machine
end

