-- ==== Sys2Proof/Certificates/Slice0/Obligations.lean ====
section
/-! DEFINITION. The statements about the machine, from the numbered rules of spec/.

Where a statement names `requests` or `reply`, these are the MODEL'S OWN fields for the host's side of the port (DESIGN
CHOICE, log entries 1 and 2), no state of the engine: a request that is served leaves the list, and `reply` holds what the
transaction returned to the host. No statement rests on a value of theirs that the spec does not give.

Where a statement ranges over every operand of `MASK`, `SUBNET` or `SPLIT`, the operands a host can encode are those up to
255 (R41); for the integers above, which no word carries, `exec` answers `InvalidMask` as the model's own reading (DEDUCED,
log entry 4). -/

open Sys2Proof Sys2Proof.Machine

/-! ## Encoding (spec/30_encoding.md) -/

/-- R40 to R43: the decoder reads a command from the command's own word exactly when the encoding can express the command. -/
def Obligations.DecodeReadsTheEncodedCommand : Prop :=
  ∀ i : Instr, decode (encode i) = .ok i ↔ i.WellFormed

/-- R40 to R43: a word the decoder accepts is the word of the command it is read as, and that command is well formed; no
bit of a legal word is ignored. -/
def Obligations.EncodeGivesBackTheDecodedWord : Prop :=
  ∀ (w : CmdWord) (i : Instr), decode w = .ok i → encode i = w ∧ i.WellFormed

/-- R42: "A word selects a command exactly when `(word & mask) == match`", with the table's six rows. -/
def Obligations.WordSelectsCommandByMaskAndMatch : Prop :=
  opcodeTable =
      [⟨"MASK", 0x00000001, 0xFFFF00FF⟩, ⟨"SUBNET", 0x00000002, 0xFFFF00FF⟩, ⟨"SUBNETP", 0x00000003, 0xFFFFFFFF⟩,
       ⟨"SUCC", 0x00000004, 0xFFFFFFFF⟩, ⟨"SPLIT", 0x00000005, 0xFFFF00FF⟩, ⟨"NEXT", 0x00000006, 0xFFFFFFFF⟩] ∧
  ∀ (w : CmdWord) (i : Instr),
    decode w = .ok i ↔
      ∃ r ∈ opcodeTable, w &&& r.mask = r.pattern ∧ r.mnemonic = i.mnemonic ∧ i.arg = (w.extractLsb' 8 8).toNat ∧
        i.opcode = w.extractLsb' 0 8

/-- R43: the decoder, case by case on the word's fields; what executes for a word it rejects; at most one row matches a
word. -/
def Obligations.DecoderFollowsItsCases : Prop :=
  (∀ w : CmdWord,
    let rsv := w.extractLsb' 16 16
    let op := w.extractLsb' 0 8
    let arg := w.extractLsb' 8 8
    (rsv ≠ 0 → ∃ e, decode w = .error e) ∧
    (rsv = 0 →
      (op = 0x01 → decode w = .ok (.mask arg.toNat)) ∧
      (op = 0x02 → decode w = .ok (.subnet arg.toNat)) ∧
      (op = 0x03 → if arg = 0 then decode w = .ok .subnetp else ∃ e, decode w = .error e) ∧
      (op = 0x04 → if arg = 0 then decode w = .ok .succ else ∃ e, decode w = .error e) ∧
      (op = 0x05 → decode w = .ok (.split arg.toNat)) ∧
      (op = 0x06 → if arg = 0 then decode w = .ok .next else ∃ e, decode w = .error e) ∧
      (op = 0x00 ∨ 0x06 < op.toNat → ∃ e, decode w = .error e))) ∧
  (∀ (w : CmdWord) (s : State) (e : Illegal),
    decode w = .error e → serve (issue w) s = .next { s with cmd := w, err := 4, reply := none }) ∧
  ∀ (w : CmdWord), ∀ r ∈ opcodeTable, ∀ r' ∈ opcodeTable, r.selects w → r'.selects w → r = r'

/-- R44: exactly 771 words are legal ("2^32 - 771 words" are illegal), and the all-zero and all-ones words are not. -/
def Obligations.Exactly771WordsAreLegal : Prop :=
  (∃ legal : List CmdWord, legal.length = 771 ∧ legal.Nodup ∧ ∀ w, w ∈ legal ↔ ∃ i, decode w = .ok i) ∧
  (∃ e, decode 0x00000000 = .error e) ∧ ∃ e, decode 0xFFFFFFFF = .error e

/-- The worked encodings of spec/30_encoding.md section 6, word by word. The names of the reasons for a rejection are the
model's (DESIGN CHOICE, log entry 9). -/
def Obligations.WorkedEncodingsDecode : Prop :=
  decode 0x00000001 = .ok (.mask 0) ∧ decode 0x00004001 = .ok (.mask 64) ∧ decode 0x00008001 = .ok (.mask 128) ∧
  decode 0x00008101 = .ok (.mask 129) ∧ decode 0x00004002 = .ok (.subnet 64) ∧
  decode 0x00008102 = .ok (.subnet 129) ∧ decode 0x00000003 = .ok .subnetp ∧ decode 0x00000004 = .ok .succ ∧
  decode 0x00004105 = .ok (.split 65) ∧ decode 0x00003F05 = .ok (.split 63) ∧ decode 0x00000005 = .ok (.split 0) ∧
  decode 0x00000006 = .ok .next ∧ decode 0x00000000 = .error .unknownOpcode ∧
  decode 0x00000103 = .error .strayArg ∧ decode 0x00014001 = .error .reservedBits ∧
  decode 0x00000007 = .error .unknownOpcode

/-- R45: the transaction each line of a host program stands for, its command word being the command's encoding. -/
def Obligations.LinesIssueTheEncodedCommand : Prop :=
  (∀ a, lineEvent (.wrAAddr a) = .regWrite 0x02 a) ∧ (∀ n, lineEvent (.wrAPfx n) = .regWrite 0x03 n) ∧
  (∀ r, lineEvent (.rd r) = .regRead r.number ∧ regOf r.number = some r) ∧
  (∀ p, lineEvent (.mask p) = .regWrite 0x00 (encode (.mask p.toNat))) ∧
  (∀ m, lineEvent (.subnet m) = .regWrite 0x00 (encode (.subnet m.toNat))) ∧
  lineEvent .subnetp = .regWrite 0x00 (encode .subnetp) ∧ lineEvent .succ = .regWrite 0x00 (encode .succ) ∧
  (∀ t, lineEvent (.split t) = .regWrite 0x00 (encode (.split t.toNat))) ∧
  lineEvent .next = .regWrite 0x00 (encode .next) ∧ ∀ w, lineEvent (.cmd w) = .regWrite 0x00 w

/-! ## The step and the host port (spec/20_memory.md) -/

/-- R32, R33, R43: when the host's next transaction writes to `CMD` a word that decodes to a command, the step runs exactly
that command, on the state in which `CMD` holds the word, the transaction is taken from the host's requests and nothing is
returned to the host. There is no program counter to move (R24). -/
def Obligations.StepRunsTheDecodedCommand : Prop :=
  ∀ (s : State) (w : CmdWord) (i : Instr) (es : List Event),
    s.requests = .regWrite 0x00 w :: es → decode w = .ok i →
      step s = exec i { s with cmd := w, requests := es, reply := none }

/-- R83: which words raise `IllegalCommand`, and that such a word is stored in `CMD`, `STATUS.ERR` takes 4, and nothing
else changes. -/
def Obligations.IllegalWordChangesOnlyCmdAndErr : Prop :=
  ∀ (s : State) (w : CmdWord) (es : List Event),
    let op := (w.extractLsb' 0 8).toNat
    s.requests = .regWrite 0x00 w :: es →
      (w.extractLsb' 16 16 ≠ 0 ∨ op < 0x01 ∨ 0x06 < op ∨
        ((op = 0x03 ∨ op = 0x04 ∨ op = 0x06) ∧ w.extractLsb' 8 8 ≠ 0)) →
      step s = .next { s with cmd := w, err := 4, requests := es, reply := none }

/-- R31: a `RegRead` returns the register's current value at the register's full width, computed for `STATUS` and
`C_COUNT`, and changes no state of the engine. -/
def Obligations.RegReadReturnsTheRegister : Prop :=
  ∀ s : State,
    (∀ (n : RegNum) (es : List Event), s.requests = .regRead n :: es →
      step s = .next { s with requests := es, reply := some ⟨n, regRead n s⟩ }) ∧
    regRead 0x00 s = s.cmd ∧ regRead 0x01 s = status s ∧ regRead 0x02 s = s.aAddr ∧ regRead 0x03 s = s.aPfx ∧
    regRead 0x04 s = s.rAddr ∧ regRead 0x05 s = s.sBegin ∧ regRead 0x06 s = s.sEnd ∧ regRead 0x07 s = s.sMask ∧
    regRead 0x08 s = s.cBegin ∧ regRead 0x09 s = s.cEnd ∧ regRead 0x0A s = s.cMask ∧ regRead 0x0B s = s.cIdx ∧
    regRead 0x0C s = childCount s

/-- R10, R37: every access moves exactly the register's width, register number by register number; no other number names a
register. -/
def Obligations.AccessMovesTheRegisterWidth : Prop :=
  portWidth 0x00 = 32 ∧ portWidth 0x01 = 32 ∧ portWidth 0x02 = 128 ∧ portWidth 0x03 = 8 ∧ portWidth 0x04 = 128 ∧
  portWidth 0x05 = 128 ∧ portWidth 0x06 = 128 ∧ portWidth 0x07 = 8 ∧ portWidth 0x08 = 128 ∧ portWidth 0x09 = 128 ∧
  portWidth 0x0A = 8 ∧ portWidth 0x0B = 128 ∧ portWidth 0x0C = 129 ∧
  ∀ n : RegNum, regOf n = none ↔ 0x0D ≤ n.toNat

/-- R32: a write to `A_ADDR` or `A_PFX` stores the value and changes nothing else, `STATUS.ERR` included; a write to `CMD`
stores the word and executes it before the transaction ends, so two `NEXT` words advance two children. -/
def Obligations.RegWriteStoresOrExecutes : Prop :=
  ∀ s : State,
    (∀ (a : Addr) (es : List Event), s.requests = .regWrite 0x02 a :: es →
      step s = .next { s with aAddr := a, requests := es, reply := none }) ∧
    (∀ (p : BitVec 8) (es : List Event), s.requests = .regWrite 0x03 p :: es →
      step s = .next { s with aPfx := p, requests := es, reply := none }) ∧
    (∀ (w : CmdWord) (es : List Event), s.requests = .regWrite 0x00 w :: es →
      step s = execWord w { s with cmd := w, requests := es, reply := none } ∧
        ∀ t, step s = .next t → t.cmd = w ∧ t.requests = es) ∧
    (s.cIdx.toNat + 2 ≤ 2 ^ s.depth.toNat - 1 →
      (serveAll [.regWrite 0x00 0x00000006, .regWrite 0x00 0x00000006] s).cIdx = s.cIdx + 2)

/-- R36: a write to a read-only register or to an unimplemented number changes no state; a read of an unimplemented number
returns 0 and changes no state. The width such a read moves is the model's (DESIGN CHOICE, log entry 3). -/
def Obligations.ReadOnlyAndUnimplementedAreIgnored : Prop :=
  ∀ (s : State) (n : RegNum) (es : List Event),
    (∀ v : BitVec (portWidth n), n ≠ 0x00 → n ≠ 0x02 → n ≠ 0x03 → s.requests = .regWrite n v :: es →
      step s = .next { s with requests := es, reply := none }) ∧
    (0x0D ≤ n.toNat → s.requests = .regRead n :: es →
      step s = .next { s with requests := es, reply := some ⟨n, 0⟩ })

/-- R33: the state after a sequence of the host's transactions is the result of applying them one after another, each on
the state the previous one left; the host's later requests play no part. -/
def Obligations.TransactionsApplyOneAfterAnother : Prop :=
  ∀ (s : State) (es later : List Event),
    Sys2Proof.core.run es.length { s with requests := es ++ later } = .next { serveAll es s with requests := later }

/-- R90, R93: without a host transaction or reset nothing happens and the engine holds its registers. That such a step
answers the same state, and no stop, is the model's reading (DEDUCED, log entry 5). -/
def Obligations.IdleEngineHoldsItsRegisters : Prop :=
  ∀ s : State, s.requests = [] → step s = .next s

/-- R104: every transaction, and so every command, completes: from every state the step answers a next state, and no step
ends in a fault or a refusal. -/
def Obligations.EveryStepCompletes : Prop :=
  (∀ s : State, ∃ t, step s = .next t) ∧ (∀ (i : Instr) (s : State), ∃ t, exec i s = .next t) ∧
  ∀ (e : Event) (s : State), serve e s = .next (transact e s)

/-! ## Reset and the invariants (spec/70_reset_and_hazards.md, spec/10_state.md section 11) -/

/-- R96: every register's reset value, and the reset values of the views. The values of the model's own two fields
`requests` and `reply` (log entries 1 and 2) are no part of it. -/
def Obligations.ResetRegisterValues : Prop :=
  State.reset.cmd = 0x00000000 ∧ State.reset.err = 0 ∧ State.reset.aAddr = 0 ∧ State.reset.aPfx = 128 ∧
  State.reset.rAddr = 0 ∧ State.reset.sMask = 128 ∧ State.reset.sBegin = 0 ∧ State.reset.sEnd = 0 ∧
  State.reset.cMask = 128 ∧ State.reset.cBegin = 0 ∧ State.reset.cEnd = 0 ∧ State.reset.cIdx = 0 ∧
  State.reset.depth = 0 ∧ status State.reset = 0x00000010 ∧ childCount State.reset = 1

/-- R95: reset, between transactions, puts every piece of the engine's state to its reset value at once, whatever came
before; the host's later requests stay the host's. -/
def Obligations.ResetEventRestoresEveryRegister : Prop :=
  ∀ (s : State) (es : List Event), s.requests = .reset :: es →
    step s = .next { State.reset with requests := es }

/-- R96: "The state invariants of 10_state.md rule R28 hold in this state." -/
def Obligations.InvariantsHoldAtReset : Prop := State.reset.Inv

/-- R28: every event keeps the state invariants, from every state that meets them. -/
def Obligations.StepKeepsTheInvariants : Prop :=
  ∀ s t : State, s.Inv → step s = .next t → t.Inv

/-- R28: "At every instant between host transactions, from reset on, these hold", whatever the host does; and what `S` and
`C` are at reset. -/
def Obligations.InvariantsHoldFromResetOn : Prop :=
  (∀ es : List Event, (serveAll es State.reset).Inv) ∧
  subnetOf State.reset = ⟨128, 0, 0⟩ ∧ childOf State.reset = ⟨128, 0, 0⟩ ∧
  subnetFromAddress State.reset.aAddr State.reset.aPfx.toNat = .ok (subnetOf State.reset) ∧
  splitSubnet (subnetOf State.reset) 128 = .ok [childOf State.reset]

/-! ## The computed views (R21, R23) -/

/-- R23: the fields of `STATUS`, and that `LAST` is 1 exactly when `C_IDX = (1 << DEPTH) - 1`. -/
def Obligations.StatusFieldsReadTheState : Prop :=
  ∀ s : State,
    (status s).extractLsb' 0 4 = s.err ∧ (status s).extractLsb' 5 3 = 0 ∧ (status s).extractLsb' 8 8 = s.depth ∧
    (status s).extractLsb' 16 16 = 0 ∧ ((status s).getLsbD 4 = true ↔ s.cIdx.toNat = 2 ^ s.depth.toNat - 1)

/-- R21: `C_COUNT` reads exactly `2^DEPTH`, never truncated at any depth a split can reach. -/
def Obligations.ChildCountIsTwoToTheDepth : Prop :=
  (∀ s : State, s.depth.toNat ≤ 128 → (childCount s).toNat = 2 ^ s.depth.toNat) ∧
  ∀ s : State, s.Inv → s.depth.toNat ≤ 128

/-! ## Address values (spec/00_scope.md section 4) -/

/-- R2, R3, R4: a value's bytes are its bits in network order; bit position `q` lies in byte `q div 8` at in-byte bit
`7 - (q mod 8)`; `val` is the sum of the bytes by their weights and orders the addresses. -/
def Obligations.AddressIsItsBytesInNetworkOrder : Prop :=
  (∀ (a : Addr) (i k : Nat), i < 16 → k < 8 → (byte a i).getLsbD k = a.getLsbD (120 - 8 * i + k)) ∧
  (∀ (a : Addr) (q : Nat), q < 128 →
    a.getMsbD q = (byte a (q / 8)).getLsbD (7 - q % 8) ∧ a.getMsbD q = a.getLsbD (127 - q)) ∧
  (∀ a : Addr, a.toNat = ((List.range 16).map fun i => (byte a i).toNat * 256 ^ (15 - i)).sum) ∧
  (∀ a b : Addr, a ≤ b ↔ a.toNat ≤ b.toNat) ∧ ∀ a : Addr, a.toNat ≤ 2 ^ 128 - 1

/-- R7: the expanded form is 39 characters, 8 groups of 4 lowercase hexadecimal digits separated by colons, and different
values have different forms. -/
def Obligations.ExpandedFormIsInjective : Prop :=
  (∀ d, d < 16 → ['0', '1', '2', '3', '4', '5', '6', '7', '8', '9', 'a', 'b', 'c', 'd', 'e', 'f'][d]? = some (hexDigit d)) ∧
  (∀ a : Addr, (xfmt a).length = 39 ∧ (∀ g, g < 7 → (xfmt a)[5 * g + 4]? = some ':') ∧
    ∀ g k, g < 8 → k < 4 →
      (xfmt a)[5 * g + k]? =
        some (hexDigit (((byte a (2 * g)).toNat * 256 + (byte a (2 * g + 1)).toNat) / 16 ^ (3 - k) % 16))) ∧
  ∀ a b : Addr, xfmt a = xfmt b → a = b

/-! ## Mask derivation (spec/40_mask.md) -/

/-- R50: the sweep from byte 15 down hands out exactly the closed form, which counts the bit positions `>= p` of the
byte; the counts sum to `128 - p` and at most one byte is partly host bits. -/
def Obligations.SweepHandsOutTheHostBits : Prop :=
  (∀ p, p ≤ 128 → sweep p = (List.range 16).map (hostBits p)) ∧
  (∀ p i, hostBits p i = min 8 (max 0 (8 * ((i : Int) + 1) - p))) ∧
  (∀ p i, hostBits p i = ((List.range 8).filter fun j => decide (p ≤ 8 * i + j)).length) ∧
  (∀ p, p ≤ 128 → ((List.range 16).map (hostBits p)).sum = 128 - p) ∧
  ∀ p i j, 0 < hostBits p i → hostBits p i < 8 → (j < i → hostBits p j = 0) ∧ (i < j → hostBits p j = 8)

/-- R51: the host-bit byte mask has `hb` trailing 1 bits and the network byte mask is its complement, with the listed
values for `hb = 0` to `8`. -/
def Obligations.ByteMasksByHostBitCount : Prop :=
  ∀ p i,
    (hostMask p i).toNat = 2 ^ hostBits p i - 1 ∧ netMask p i = ~~~ hostMask p i ∧
    (netMask p i).toNat = 255 - (hostMask p i).toNat ∧
    ([0x00, 0x01, 0x03, 0x07, 0x0f, 0x1f, 0x3f, 0x7f, 0xff] : List Byte)[hostBits p i]? = some (hostMask p i) ∧
    ([0xff, 0xfe, 0xfc, 0xf8, 0xf0, 0xe0, 0xc0, 0x80, 0x00] : List Byte)[hostBits p i]? = some (netMask p i)

/-- R52: `maskAddress(p)` byte by byte, bit by bit, and as a number; its edge cases. -/
def Obligations.MaskAddressHasTheLeadingBitsSet : Prop :=
  (∀ p, p ≤ 128 →
    (∀ i, i < 16 → byte (maskAddress p) i = netMask p i) ∧
    (∀ q, q < 128 → (maskAddress p).getMsbD q = decide (q < p)) ∧
    (maskAddress p).toNat = 2 ^ 128 - 2 ^ (128 - p)) ∧
  maskAddress 0 = 0 ∧ maskAddress 128 = BitVec.allOnes 128

/-- R54 (a) to (e). -/
def Obligations.MaskPatternProperties : Prop :=
  (∀ p q, p ≤ 128 → q < 128 → ((maskAddress p).getMsbD q = true ↔ q < p)) ∧
  (∀ p, p ≤ 128 → ((List.range 128).filter fun q => (maskAddress p).getMsbD q).length = p) ∧
  (∀ p p', p ≤ p' → p' ≤ 128 →
    maskAddress p &&& maskAddress p' = maskAddress p ∧ (maskAddress p).toNat ≤ (maskAddress p').toNat) ∧
  (∀ p p', p ≤ 128 → p' ≤ 128 → maskAddress p = maskAddress p' → p = p') ∧
  ∀ p i, hostMask p i &&& netMask p i = 0 ∧ hostMask p i ||| netMask p i = 0xff

/-- R53: `MASK p`: its word, its result, all it leaves alone, its error, its corner cases and worked examples. -/
def Obligations.MaskCommand : Prop :=
  (∀ p, p ≤ 255 → encode (.mask p) = BitVec.ofNat 32 (p * 256 + 0x01)) ∧
  (∀ (s : State) (p : Nat), p ≤ 128 →
    ∃ t, exec (.mask p) s = .next t ∧ t = { s with rAddr := t.rAddr, err := 0 } ∧
      (∀ i, i < 16 → byte t.rAddr i = netMask p i) ∧ ∀ q, q < 128 → t.rAddr.getMsbD q = decide (q < p)) ∧
  (∀ (s : State) (p : Nat), 128 < p → exec (.mask p) s = .next { s with err := 2 }) ∧
  (∀ (s : State) (k i : Nat), k ≤ 16 → i < 16 →
    ∃ t, exec (.mask (8 * k)) s = .next t ∧ byte t.rAddr i = if i < k then 0xff else 0x00) ∧
  ∀ s : State,
    exec (.mask 0) s = .next { s with rAddr := 0, err := 0 } ∧
    exec (.mask 128) s = .next { s with rAddr := BitVec.allOnes 128, err := 0 } ∧
    exec (.mask 64) s = .next { s with rAddr := 0xffffffffffffffff0000000000000000, err := 0 } ∧
    exec (.mask 65) s = .next { s with rAddr := 0xffffffffffffffff8000000000000000, err := 0 }

/-! ## Subnet construction (spec/41_subnet.md) -/

/-- R55: `subnetFromAddress(a, m)` fails exactly outside [0,128], and else its bytes are the masked bytes of `a`. -/
def Obligations.SubnetFromAddressByBytes : Prop :=
  ∀ (a : Addr) (m : Nat),
    (128 < m → subnetFromAddress a m = .error .invalidMask) ∧
    (m ≤ 128 → ∃ S, subnetFromAddress a m = .ok S ∧ S.mask = m ∧
      ∀ i, i < 16 → byte S.first i = byte a i &&& netMask m i ∧ byte S.last i = byte a i ||| hostMask m i)

/-- R58: the range agrees with the address on the leading `m` bits and is all zero and all one on the others; (a) the
Subnet invariants and the size, (b) idempotence, (c) alignment, (d) nesting. -/
def Obligations.RangeOfAnAddress : Prop :=
  ∀ (a : Addr) (m : Nat), m ≤ 128 →
    let S := rangeOf a m
    (∀ q, q < 128 →
      if q < m then S.first.getMsbD q = a.getMsbD q ∧ S.last.getMsbD q = a.getMsbD q
      else S.first.getMsbD q = false ∧ S.last.getMsbD q = true) ∧
    S.Valid ∧ S.first.toNat ≤ a.toNat ∧ a.toNat ≤ S.last.toNat ∧
    S.last.toNat - S.first.toNat = 2 ^ (128 - m) - 1 ∧
    rangeOf S.first m = S ∧ rangeOf S.last m = S ∧ (∀ b, S.Contains b → rangeOf b m = S) ∧
    2 ^ (128 - m) ∣ S.first.toNat ∧
    ∀ m', m ≤ m' → m' ≤ 128 →
      S.first.toNat ≤ (rangeOf a m').first.toNat ∧ (rangeOf a m').last.toNat ≤ S.last.toNat

/-- R59: the range through the mask pattern; `SUBNET` neither reads nor writes `R_ADDR`. -/
def Obligations.RangeThroughTheMaskPattern : Prop :=
  (∀ (a : Addr) (m i : Nat), m ≤ 128 → i < 16 →
    byte (rangeBegin a m) i = byte a i &&& byte (maskAddress m) i ∧
    byte (rangeEnd a m) i = byte a i ||| ~~~ byte (maskAddress m) i) ∧
  (∀ (a : Addr) (m : Nat), m ≤ 128 →
    rangeBegin a m = a &&& maskAddress m ∧ rangeEnd a m = a ||| ~~~ maskAddress m) ∧
  ∀ (s t : State) (m : Nat) (x : Addr), exec (.subnet m) s = .next t →
    t.rAddr = s.rAddr ∧ exec (.subnet m) { s with rAddr := x } = .next { t with rAddr := x }

/-- R56: `SUBNET m`: its word, its result, all it leaves alone, its error, its corner cases and worked example. -/
def Obligations.SubnetCommand : Prop :=
  (∀ m, m ≤ 255 → encode (.subnet m) = BitVec.ofNat 32 (m * 256 + 0x02)) ∧
  (∀ (s : State) (m : Nat), m ≤ 128 →
    ∃ t, exec (.subnet m) s = .next t ∧
      t = { s with sBegin := t.sBegin, sEnd := t.sEnd, sMask := BitVec.ofNat 8 m, err := 0 } ∧ t.sMask.toNat = m ∧
      (∀ i, i < 16 → byte t.sBegin i = byte s.aAddr i &&& netMask m i ∧
        byte t.sEnd i = byte s.aAddr i ||| hostMask m i) ∧
      exec (.subnet m) { t with aAddr := t.sBegin } = .next { t with aAddr := t.sBegin }) ∧
  (∀ (s : State) (m : Nat), 128 < m → exec (.subnet m) s = .next { s with err := 2 }) ∧
  (∀ s : State,
    exec (.subnet 0) s = .next { s with sBegin := 0, sEnd := BitVec.allOnes 128, sMask := 0, err := 0 } ∧
    exec (.subnet 128) s = .next { s with sBegin := s.aAddr, sEnd := s.aAddr, sMask := 128, err := 0 }) ∧
  (∀ (s : State) (k i : Nat), k ≤ 16 → i < 16 →
    ∃ t, exec (.subnet (8 * k)) s = .next t ∧ byte t.sBegin i = (if i < k then byte s.aAddr i else 0x00) ∧
      byte t.sEnd i = if i < k then byte s.aAddr i else 0xff) ∧
  ∀ s : State, s.aAddr = 0xfec0bebecafe00000000000000000000 →
    exec (.subnet 64) s =
      .next { s with
        sBegin := 0xfec0bebecafe00000000000000000000, sEnd := 0xfec0bebecafe0000ffffffffffffffff, sMask := 64,
        err := 0 }

/-- R57: `SUBNETP`: its word, its result, all it leaves alone, its errors, its agreement with `SUBNET m`, and its corner
case and worked example. -/
def Obligations.SubnetpCommand : Prop :=
  encode .subnetp = 0x00000003 ∧
  (∀ s : State, s.aPfx.toNat ≤ 128 →
    ∃ t, exec .subnetp s = .next t ∧
      t = { s with sBegin := t.sBegin, sEnd := t.sEnd, sMask := s.aPfx, err := 0 } ∧
      ∀ i, i < 16 → byte t.sBegin i = byte s.aAddr i &&& netMask s.aPfx.toNat i ∧
        byte t.sEnd i = byte s.aAddr i ||| hostMask s.aPfx.toNat i) ∧
  (∀ s : State, 128 < s.aPfx.toNat → exec .subnetp s = .next { s with err := 2 }) ∧
  (∀ (s : State) (m : BitVec 8), exec .subnetp { s with aPfx := m } = exec (.subnet m.toNat) { s with aPfx := m }) ∧
  (∀ (s : State) (arg : BitVec 8), arg ≠ 0 →
    serve (issue (0#16 ++ arg ++ 0x03#8)) s =
      .next { s with cmd := 0#16 ++ arg ++ 0x03#8, err := 4, reply := none }) ∧
  exec .subnetp State.reset = .next State.reset ∧
  ∀ s : State, s.aAddr = 0x20010db885a3123456789abcdef01357 → s.aPfx = 61 →
    exec .subnetp s =
      .next { s with
        sBegin := 0x20010db885a312300000000000000000, sEnd := 0x20010db885a31237ffffffffffffffff, sMask := 61,
        err := 0 }

/-! ## Successor (spec/42_successor.md) -/

/-- R60: with `j` trailing 0xff bytes, those become 0x00, the byte before them is incremented, and the rest are copied. -/
def Obligations.SuccessorChangesTheTrailingBytes : Prop :=
  ∀ (a : Addr) (j : Nat), j ≤ 16 → (∀ i, i < 16 → 16 ≤ i + j → byte a i = 0xff) →
    (j < 16 → byte a (15 - j) ≠ 0xff) →
    ∀ i, i < 16 →
      byte (successor a) i = if 16 ≤ i + j then 0x00 else if i + j = 15 then byte a i + 1 else byte a i

/-- R61: `val(successor(a)) = (val(a) + 1) mod 2^128`; the wrap of the all-ones address is no error and leaves no trace but
the result. -/
def Obligations.SuccessorAddsOneAndWraps : Prop :=
  (∀ a : Addr, (successor a).toNat = (a.toNat + 1) % 2 ^ 128) ∧
  ∀ s : State, s.aAddr = BitVec.allOnes 128 → exec .succ s = .next { s with rAddr := 0, err := 0 }

/-- R63 (a) to (d). -/
def Obligations.SuccessorProperties : Prop :=
  Function.Bijective successor ∧ (∀ a, successor a ≠ a) ∧
  (∀ a : Addr, a ≠ BitVec.allOnes 128 → a.toNat < (successor a).toNat) ∧
  ∀ (a : Addr) (h : Nat), h ≤ 128 → a.toNat % 2 ^ h = 2 ^ h - 1 →
    (successor a).toNat % 2 ^ h = 0 ∧ (successor a).toNat / 2 ^ h = (a.toNat / 2 ^ h + 1) % 2 ^ (128 - h)

/-- R62: `SUCC`: its word, its result, all it leaves alone, that it cannot fail once decoded, its corner cases and worked
example. -/
def Obligations.SuccCommand : Prop :=
  encode .succ = 0x00000004 ∧
  (∀ s : State, ∃ t, exec .succ s = .next t ∧ t = { s with rAddr := t.rAddr, err := 0 } ∧
    t.rAddr = successor s.aAddr ∧ t.rAddr.toNat = (s.aAddr.toNat + 1) % 2 ^ 128 ∧ exec .succ t = .next t) ∧
  (∀ (s : State) (arg : BitVec 8), arg ≠ 0 →
    serve (issue (0#16 ++ arg ++ 0x04#8)) s =
      .next { s with cmd := 0#16 ++ arg ++ 0x04#8, err := 4, reply := none }) ∧
  ∀ s : State,
    exec .succ { s with aAddr := BitVec.allOnes 128 } =
      .next { s with aAddr := BitVec.allOnes 128, rAddr := 0, err := 0 } ∧
    exec .succ { s with aAddr := 0 } = .next { s with aAddr := 0, rAddr := 1, err := 0 } ∧
    exec .succ { s with aAddr := 0x7fffffffffffffffffffffffffffffff } =
      .next { s with
        aAddr := 0x7fffffffffffffffffffffffffffffff, rAddr := 0x80000000000000000000000000000000, err := 0 } ∧
    exec .succ { s with aAddr := 0xfec0bebecafe00007fffffffffffffff } =
      .next { s with
        aAddr := 0xfec0bebecafe00007fffffffffffffff, rAddr := 0xfec0bebecafe00008000000000000000, err := 0 }

/-! ## Splitting (spec/43_split.md) -/

/-- R65: `splitSubnet(S, t)`: its two checks in order, and the recurrence of its children. -/
def Obligations.SplitSubnetByRecurrence : Prop :=
  ∀ (S : Subnet) (t : Nat),
    (t < 1 ∨ 128 < t → splitSubnet S t = .error .invalidMask) ∧
    (1 ≤ t → t ≤ 128 → t < S.mask → splitSubnet S t = .error .maskNotDeepenable) ∧
    (1 ≤ t → t ≤ 128 → S.mask ≤ t → ∃ children, splitSubnet S t = .ok children ∧
      children.length = 2 ^ (t - S.mask) ∧
      (∃ c, children[0]? = some c ∧ subnetFromAddress S.first t = .ok c) ∧
      ∀ k, k + 1 < 2 ^ (t - S.mask) → ∃ c d, children[k]? = some c ∧ children[k + 1]? = some d ∧
        subnetFromAddress (successor c.last) t = .ok d)

/-- R66: equal masks give exactly one child equal to the parent, for parents of mask 1 to 128; mask 0 is refused;
`MaskNotDeepenable` is raised only when the target is strictly shallower. -/
def Obligations.EqualMasksGiveTheParent : Prop :=
  (∀ S : Subnet, S.Valid → 1 ≤ S.mask → splitSubnet S S.mask = .ok [S]) ∧
  (∀ S : Subnet, S.mask = 0 → splitSubnet S 0 = .error .invalidMask) ∧
  ∀ (S : Subnet) (t : Nat), splitSubnet S t = .error .maskNotDeepenable → t < S.mask

/-- R67: the count is exact, between 1 and 2^128, and no depth is refused: `SPLIT` succeeds at every one and `C_COUNT`
reads `2^depth`. -/
def Obligations.CountIsExactAtEveryDepth : Prop :=
  ∀ (s : State) (t : Nat), 1 ≤ t → t ≤ 128 → s.sMask.toNat ≤ t →
    ∃ u, exec (.split t) s = .next u ∧ u.err = 0 ∧ (childCount u).toNat = 2 ^ (t - s.sMask.toNat) ∧
      splitCount (subnetOf s) t = 2 ^ (t - s.sMask.toNat) ∧ 1 ≤ 2 ^ (t - s.sMask.toNat) ∧
      2 ^ (t - s.sMask.toNat) ≤ 2 ^ 128

/-- R68: the children of a valid Subnet are contiguous, gapless, disjoint, in increasing order, of equal size, and cover
exactly the parent's range. -/
def Obligations.ChildrenPartitionTheParent : Prop :=
  ∀ (S : Subnet) (t : Nat), S.Valid → 1 ≤ t → S.mask ≤ t → t ≤ 128 →
    let child := splitChild S t
    let count := splitCount S t
    (child 0).first = S.first ∧ (child (count - 1)).last = S.last ∧
    (∀ k, k + 1 < count → (child (k + 1)).first = successor (child k).last) ∧
    (∀ k, k < count → (child k).mask = t ∧ (child k).last.toNat + 1 = (child k).first.toNat + 2 ^ (128 - t)) ∧
    (∀ j k, j < k → k < count → (child j).last.toNat < (child k).first.toNat) ∧
    ∀ a : Addr, S.Contains a ↔ ∃ k, k < count ∧ (child k).Contains a ∧ ∀ j, j < count → (child j).Contains a → j = k

/-- R69: the closed form of the byte procedure, as numbers and bit by bit. -/
def Obligations.ChildrenHaveTheClosedForm : Prop :=
  ∀ (S : Subnet) (t k : Nat), S.Valid → 1 ≤ t → S.mask ≤ t → t ≤ 128 → k < splitCount S t →
    (splitChild S t k).first.toNat = S.first.toNat + k * 2 ^ (128 - t) ∧
    (splitChild S t k).last.toNat = (splitChild S t k).first.toNat + 2 ^ (128 - t) - 1 ∧
    ∀ q, q < 128 →
      (splitChild S t k).first.getMsbD q =
        (if q < S.mask then S.first.getMsbD q else if q < t then k.testBit (t - 1 - q) else false) ∧
      (splitChild S t k).last.getMsbD q =
        if q < S.mask then S.first.getMsbD q else if q < t then k.testBit (t - 1 - q) else true

/-- R70: `SPLIT t`: its word, its result and the views after it, all it leaves alone, its errors in order, its corner
cases and worked example. -/
def Obligations.SplitCommand : Prop :=
  (∀ t, t ≤ 255 → encode (.split t) = BitVec.ofNat 32 (t * 256 + 0x05)) ∧
  (∀ (s : State) (t : Nat), 1 ≤ t → t ≤ 128 → s.sMask.toNat ≤ t →
    ∃ u, exec (.split t) s = .next u ∧
      u = { s with
        cBegin := u.cBegin, cEnd := u.cEnd, cMask := BitVec.ofNat 8 t, cIdx := 0,
        depth := BitVec.ofNat 8 (t - s.sMask.toNat), err := 0 } ∧
      (∀ i, i < 16 → byte u.cBegin i = byte s.sBegin i &&& netMask t i ∧
        byte u.cEnd i = byte s.sBegin i ||| hostMask t i) ∧
      u.cMask.toNat = t ∧ u.depth.toNat = t - s.sMask.toNat ∧
      (childCount u).toNat = 2 ^ (t - s.sMask.toNat) ∧ (isLast u = true ↔ t = s.sMask.toNat) ∧
      (s.Inv → u.cBegin = s.sBegin ∧ (t = s.sMask.toNat → u.cEnd = s.sEnd)) ∧
      (t = 128 → u.cEnd = u.cBegin)) ∧
  (∀ (s : State) (t : Nat), t = 0 ∨ 128 < t → exec (.split t) s = .next { s with err := 2 }) ∧
  (∀ (s : State) (t : Nat), 1 ≤ t → t ≤ 128 → t < s.sMask.toNat → exec (.split t) s = .next { s with err := 3 }) ∧
  exec (.split 128) State.reset = .next State.reset ∧
  (∀ t, t ≠ 128 → ∃ e, e ≠ 0 ∧ exec (.split t) State.reset = .next { State.reset with err := e }) ∧
  ∀ s : State, s.sMask = 64 → s.sBegin = 0xfec0bebecafe00000000000000000000 →
    exec (.split 65) s =
      .next { s with
        cBegin := 0xfec0bebecafe00000000000000000000, cEnd := 0xfec0bebecafe00007fffffffffffffff, cMask := 65,
        cIdx := 0, depth := 1, err := 0 }

/-- R73: `NEXT`: its word, its result from the OLD `C_END`, all it leaves alone, its errors, its corner cases and worked
example. -/
def Obligations.NextCommand : Prop :=
  encode .next = 0x00000006 ∧
  (∀ s : State, s.cIdx.toNat ≠ 2 ^ s.depth.toNat - 1 →
    ∃ u, exec .next s = .next u ∧
      u = { s with cBegin := u.cBegin, cEnd := u.cEnd, cIdx := s.cIdx + 1, err := 0 } ∧
      (∀ i, i < 16 → byte u.cBegin i = byte (successor s.cEnd) i &&& netMask s.cMask.toNat i ∧
        byte u.cEnd i = byte (successor s.cEnd) i ||| hostMask s.cMask.toNat i) ∧
      (s.Inv → u.cBegin = successor s.cEnd ∧ u.cIdx.toNat = s.cIdx.toNat + 1 ∧
        (isLast u = true ↔ s.cIdx.toNat + 1 = 2 ^ s.depth.toNat - 1) ∧
        (∃ i, i < 16 ∧ byte s.cEnd i ≠ 0xff) ∧
        ∀ i, i < 16 → 16 ≤ i + (128 - s.cMask.toNat) / 8 → byte s.cEnd i = 0xff ∧ byte (successor s.cEnd) i = 0x00) ∧
      (s.cMask = 128 → u.cBegin = successor s.cEnd ∧ u.cEnd = successor s.cEnd)) ∧
  (∀ s : State, s.cIdx.toNat = 2 ^ s.depth.toNat - 1 →
    exec .next s = .next { s with err := 5 } ∧
      exec .next { s with err := 5 } = .next { s with err := 5 }) ∧
  (∀ (s : State) (arg : BitVec 8), arg ≠ 0 →
    serve (issue (0#16 ++ arg ++ 0x06#8)) s =
      .next { s with cmd := 0#16 ++ arg ++ 0x06#8, err := 4, reply := none }) ∧
  exec .next State.reset = .next { State.reset with err := 5 } ∧
  (∀ s u : State, 1 ≤ s.sMask.toNat → s.sMask.toNat ≤ 128 → exec (.split s.sMask.toNat) s = .next u →
    exec .next u = .next { u with err := 5 }) ∧
  ∀ s : State, s.cMask = 65 → s.cEnd = 0xfec0bebecafe00007fffffffffffffff → s.cIdx = 0 → s.depth = 1 →
    ∃ u, u = { s with
        cBegin := 0xfec0bebecafe00008000000000000000, cEnd := 0xfec0bebecafe0000ffffffffffffffff, cIdx := 1,
        err := 0 } ∧
      exec .next s = .next u ∧ isLast u = true ∧ exec .next u = .next { u with err := 5 }

/-- R71: after a successful `SPLIT t` and any further events that start no new sequence, `j` of them successful `NEXT`
commands, `C` holds child `j` of `splitSubnet(S, t)`, `C_IDX = j`, `C_COUNT` is the count and `LAST` marks the last child;
the `NEXT` issued there fails and changes nothing. -/
def Obligations.StreamAgreesWithTheSequence : Prop :=
  ∀ (s : State) (t : Nat) (es : List Event), 1 ≤ t → t ≤ 128 → s.sMask.toNat ≤ t →
    let S := subnetOf s
    let started := transact (issue (encode (.split t))) s
    let u := serveAll es started
    let j := nextsDone es started
    keepsSequence es started = true →
      j < splitCount S t ∧ u.cIdx.toNat = j ∧ childOf u = splitChild S t j ∧
      (childCount u).toNat = splitCount S t ∧ (isLast u = true ↔ j = splitCount S t - 1) ∧
      (j = splitCount S t - 1 →
        serve (issue (encode .next)) u = .next { u with cmd := encode .next, err := 5, reply := none })

/-- R74: within a sequence `NEXT` never steps from the all-ones address: only the last child can end there. -/
def Obligations.NextNeverWraps : Prop :=
  ∀ s : State, s.Inv → isLast s = false →
    s.cEnd ≠ BitVec.allOnes 128 ∧ (successor s.cEnd).toNat = s.cEnd.toNat + 1

/-- R29: `NEXT` reads nothing of `S`: a running sequence continues whatever `S` has become, and `SUBNET` and `SUBNETP`
leave the sequence intact. -/
def Obligations.SequenceIsIndependentOfTheSubnet : Prop :=
  (∀ (s u : State) (b e : Addr) (m : BitVec 8), exec .next s = .next u →
    exec .next { s with sBegin := b, sEnd := e, sMask := m } = .next { u with sBegin := b, sEnd := e, sMask := m }) ∧
  ∀ (s u : State) (i : Instr), (∃ m, i = .subnet m) ∨ i = .subnetp → exec i s = .next u →
    childOf u = childOf s ∧ u.cIdx = s.cIdx ∧ u.depth = s.depth

/-- R76: between a `SPLIT` and its `NEXT`s, the commands and failures that touch no register of the child sequence; `MASK`
and `SUCC` touch only `R_ADDR`, `SUBNET` and `SUBNETP` only `S`. -/
def Obligations.OnlySplitAndNextTouchTheSequence : Prop :=
  (∀ (e : Event) (s : State), startsSequence e s = false → advances e s = false →
    childOf (transact e s) = childOf s ∧ (transact e s).cIdx = s.cIdx ∧ (transact e s).depth = s.depth) ∧
  ∀ (s u : State) (i : Instr), exec i s = .next u →
    ((∃ p, i = .mask p) ∨ i = .succ → u = { s with rAddr := u.rAddr, err := u.err }) ∧
    ((∃ m, i = .subnet m) ∨ i = .subnetp →
      u = { s with sBegin := u.sBegin, sEnd := u.sEnd, sMask := u.sMask, err := u.err })

/-! ## Errors (spec/60_exceptions.md) -/

/-- R94: every command, every completion code, each exactly under its condition; and every other word ends with 4. -/
def Obligations.EveryCommandEndsWithItsCode : Prop :=
  (∀ (s u : State) (p : Nat), exec (.mask p) s = .next u →
    (u.err = 0 ↔ p ≤ 128) ∧ (u.err = 2 ↔ 129 ≤ p) ∧ (u.err = 0 ∨ u.err = 2)) ∧
  (∀ (s u : State) (m : Nat), exec (.subnet m) s = .next u →
    (u.err = 0 ↔ m ≤ 128) ∧ (u.err = 2 ↔ 129 ≤ m) ∧ (u.err = 0 ∨ u.err = 2)) ∧
  (∀ s u : State, exec .subnetp s = .next u →
    (u.err = 0 ↔ s.aPfx.toNat ≤ 128) ∧ (u.err = 2 ↔ 129 ≤ s.aPfx.toNat) ∧ (u.err = 0 ∨ u.err = 2)) ∧
  (∀ s u : State, exec .succ s = .next u → u.err = 0) ∧
  (∀ (s u : State) (t : Nat), exec (.split t) s = .next u →
    (u.err = 0 ↔ max 1 s.sMask.toNat ≤ t ∧ t ≤ 128) ∧ (u.err = 2 ↔ t = 0 ∨ 129 ≤ t) ∧
    (u.err = 3 ↔ 1 ≤ t ∧ t ≤ 128 ∧ t < s.sMask.toNat) ∧ (u.err = 0 ∨ u.err = 2 ∨ u.err = 3)) ∧
  (∀ s u : State, exec .next s = .next u →
    (u.err = 0 ↔ isLast s = false) ∧ (u.err = 5 ↔ isLast s = true) ∧ (u.err = 0 ∨ u.err = 5)) ∧
  ∀ (s u : State) (w : CmdWord), serve (issue w) s = .next u →
    (u.err = 4 ↔ ∀ i, decode w ≠ .ok i) ∧ u.err ≠ 1

/-- R84: a command that ends in an error leaves the state as it was except for `STATUS.ERR` and `CMD`. -/
def Obligations.FailedCommandChangesOnlyErrAndCmd : Prop :=
  ∀ (s u : State) (w : CmdWord), serve (issue w) s = .next u → u.err ≠ 0 →
    u = { s with cmd := w, err := u.err, reply := none }

/-- R26: a command reads only the registers of its "reads" column and writes only those of its "writes on success"
column, and on failure only `ERR`; no command writes `A_ADDR` or `A_PFX`. -/
def Obligations.CommandsReadAndWriteOnlyTheirRow : Prop :=
  (∀ (i : Instr) (s u : State), exec i s = .next u →
    (u.err = 0 → u = onlyWrites i s u) ∧ (u.err ≠ 0 → u = { s with err := u.err }) ∧
    u.aAddr = s.aAddr ∧ u.aPfx = s.aPfx ∧ u.cmd = s.cmd ∧ (i = .succ → u.err = 0)) ∧
  (∀ (s : State) (w : CmdWord) (e : Illegal), decode w = .error e → execWord w s = .next { s with err := 4 }) ∧
  ∀ (i : Instr) (s s' u u' : State), sameReads i s s' → exec i s = .next u → exec i s' = .next u' →
    u.err = u'.err ∧ (u.err = 0 → sameWrites i u u')

/-- R87: `STATUS.ERR` is not sticky and no command reads it; register reads and operand writes leave it; the same command
on the state a failure left fails again with the same code. -/
def Obligations.ErrIsOnlyTheLatestCode : Prop :=
  (∀ (i : Instr) (s : State) (e : BitVec 4), exec i { s with err := e } = exec i s) ∧
  (∀ (s : State) (n : RegNum), (transact (.regRead n) s).err = s.err) ∧
  (∀ (s : State) (a : Addr), (transact (.regWrite 0x02 a) s).err = s.err) ∧
  (∀ (s : State) (p : BitVec 8), (transact (.regWrite 0x03 p) s).err = s.err) ∧
  ∀ (i : Instr) (s u : State), exec i s = .next u → u.err ≠ 0 → exec i u = .next u

/-- R88: a command raises the first error of the order `IllegalCommand`, `InvalidMask`, `MaskNotDeepenable` whose condition
holds. -/
def Obligations.FirstErrorInOrderIsRaised : Prop :=
  (∀ (s : State) (w : CmdWord) (e : Illegal), decode w = .error e → (transact (issue w) s).err = 4) ∧
  (∀ (s : State) (t : Nat), t = 0 ∨ 128 < t → exec (.split t) s = .next { s with err := 2 }) ∧
  ∀ s : State, 1 ≤ s.sMask.toNat → exec (.split 0) s = .next { s with err := 2 }

/-! ## Host programs (R46) -/

/-- R46, `INFO` after `LDA`: the mask pattern in `R_ADDR` and the range in `S` for a valid prefix; else both commands fail
with `InvalidMask` and write neither. -/
def Obligations.InfoCaseGivesMaskAndRange : Prop :=
  ∀ (s : State) (a : Addr) (n : BitVec 8),
    let u := serveAll ((lda a n ++ info n).map lineEvent) s
    u.aAddr = a ∧ u.aPfx = n ∧
    (n.toNat ≤ 128 → u.err = 0 ∧ u.rAddr = maskAddress n.toNat ∧ subnetOf u = rangeOf a n.toNat ∧
      u.reply = some ⟨0x07, n⟩) ∧
    (128 < n.toNat → u.err = 2 ∧ u.rAddr = s.rAddr ∧ subnetOf u = subnetOf s)

/-- R46, R71: `SPLITALL t`, drained to the end, reads the count and exactly the children of `splitSubnet(S, t)`, in order;
where the `SPLIT` fails it reads none. The host's loop is bounded by `fuel` in the model (DESIGN CHOICE, log entry 8),
here at least the number of children. -/
def Obligations.SplitAllReadsEveryChild : Prop :=
  ∀ (s : State) (t : BitVec 8) (fuel : Nat),
    (∀ children, splitSubnet (subnetOf s) t.toNat = .ok children → children.length ≤ fuel →
      (splitAll fuel t s).1 = some (BitVec.ofNat 129 children.length, children.map fun c => (c.first, c.last))) ∧
    ∀ e, splitSubnet (subnetOf s) t.toNat = .error e → (splitAll fuel t s).1 = none
end

