-- ==== Sys2Proof/Laws/Bytes.lean ====
section
/-! SUPPORT. An address value and its 16 bytes determine each other (R2); bit positions and bytes (R3). -/

namespace Sys2Proof.Machine

/-- Bit `k` of packed bytes lies in the byte `k / 8` from the end. -/
theorem getLsbD_packBytes (n : Nat) (f : Nat → Byte) (k : Nat) :
    (packBytes n f).getLsbD k = (decide (k < 8 * n) && (f (n - 1 - k / 8)).getLsbD (k % 8)) := by
  induction n generalizing k with
  | zero => simp [packBytes]
  | succ n ih =>
    rw [packBytes, BitVec.getLsbD_append]
    split
    · next h => simp [Nat.div_eq_of_lt h, Nat.mod_eq_of_lt h]; omega
    · next h =>
      rw [ih, show (k - 8) / 8 = k / 8 - 1 by omega, show (k - 8) % 8 = k % 8 by omega,
        show n + 1 - 1 - k / 8 = n - 1 - (k / 8 - 1) by omega]
      congr 1
      simp; omega

/-- Bit position `q` of R3 lies in byte `q div 8` at in-byte position `q mod 8` from its most significant bit. -/
theorem getMsbD_ofBytes (f : Nat → Byte) {q : Nat} (hq : q < 128) :
    (ofBytes f).getMsbD q = (f (q / 8)).getMsbD (q % 8) := by
  have h := getLsbD_packBytes 16 f (127 - q)
  rw [BitVec.getMsbD, BitVec.getMsbD, ofBytes]
  rw [show 128 - 1 - q = 127 - q by omega, h, show 16 - 1 - (127 - q) / 8 = q / 8 by omega,
    show (127 - q) % 8 = 8 - 1 - q % 8 by omega]
  simp [hq, show 127 - q < 128 by omega, show q % 8 < 8 by omega]

theorem getMsbD_byte (a : Addr) {i j : Nat} (hi : i < 16) (hj : j < 8) :
    (byte a i).getMsbD j = a.getMsbD (8 * i + j) := by
  simp only [byte, BitVec.getMsbD, BitVec.getLsbD_extractLsb']
  simp [hj, show 8 * i + j < 128 by omega, show 7 - j < 8 by omega]
  congr 1; omega

theorem byte_ofBytes (f : Nat → Byte) {i : Nat} (hi : i < 16) : byte (ofBytes f) i = f i := by
  apply BitVec.eq_of_getMsbD_eq
  intro j hj
  rw [getMsbD_byte _ hi hj, getMsbD_ofBytes f (by omega), show (8 * i + j) / 8 = i by omega,
    show (8 * i + j) % 8 = j by omega]

/-- Two address values with the same 16 bytes are the same. -/
theorem eq_of_byte_eq {a b : Addr} (h : ∀ i, i < 16 → byte a i = byte b i) : a = b := by
  apply BitVec.eq_of_getMsbD_eq
  intro q hq
  have key := congrArg (fun x : Byte => x.getMsbD (q % 8)) (h (q / 8) (by omega))
  simp only [getMsbD_byte _ (show q / 8 < 16 by omega) (Nat.mod_lt q (show 0 < 8 by omega)),
    Nat.div_add_mod] at key
  exact key

theorem ofBytes_byte (a : Addr) : ofBytes (byte a) = a :=
  eq_of_byte_eq fun _ hi => byte_ofBytes _ hi

theorem getMsbD_setByte (r : Addr) {n : Nat} (hn : n < 16) (b : Byte) {q : Nat} (hq : q < 128) :
    (setByte r n b).getMsbD q = if q / 8 = n then b.getMsbD (q % 8) else r.getMsbD q := by
  have hff : ∀ k, (0xff : Addr).getLsbD k = decide (k < 8) := by
    intro k
    rw [show (0xff : Addr) = BitVec.ofNat 128 (2 ^ 8 - 1) from rfl, BitVec.getLsbD_ofNat,
      Nat.testBit_two_pow_sub_one]
    by_cases h : k < 8 <;> simp [h]
    omega
  simp only [setByte, BitVec.getMsbD, BitVec.getLsbD_or, BitVec.getLsbD_and, BitVec.getLsbD_not,
    BitVec.getLsbD_shiftLeft, BitVec.getLsbD_setWidth, hff]
  split
  · next h =>
    rw [show 8 - 1 - q % 8 = 128 - 1 - q - (120 - 8 * n) by omega]
    simp [hq, show q % 8 < 8 by omega, show 127 - q < 128 by omega, show ¬ 127 - q < 120 - 8 * n by omega,
      show 127 - q - (120 - 8 * n) < 8 by omega, show 127 - q - (120 - 8 * n) < 128 by omega]
  · next h =>
    rcases Nat.lt_or_ge (127 - q) (120 - 8 * n) with h' | h'
    · simp [hq, h', show 127 - q < 128 by omega]
    · simp [hq, show 127 - q < 128 by omega, show ¬ 127 - q - (120 - 8 * n) < 8 by omega,
        BitVec.getLsbD_of_ge b (127 - q - (120 - 8 * n)) (by omega)]

theorem byte_setByte (r : Addr) {n : Nat} (hn : n < 16) (b : Byte) {i : Nat} (hi : i < 16) :
    byte (setByte r n b) i = if i = n then b else byte r i := by
  apply BitVec.eq_of_getMsbD_eq
  intro j hj
  rw [getMsbD_byte _ hi hj, getMsbD_setByte r hn b (by omega), show (8 * i + j) / 8 = i by omega,
    show (8 * i + j) % 8 = j by omega]
  split
  · rfl
  · rw [getMsbD_byte r hi hj]

end Sys2Proof.Machine
end

