-- ==== Sys2Proof/Laws/Decode.lean ====
section
/-! SUPPORT. A command word is its three fields, and its fields are read back from it (R40). -/

namespace Sys2Proof

theorem rsvField_append (r : BitVec 16) (a o : BitVec 8) : rsvField (r ++ a ++ o) = r := by
  apply BitVec.eq_of_getLsbD_eq
  intro k hk
  rw [rsvField, BitVec.getLsbD_extractLsb', BitVec.getLsbD_append, BitVec.getLsbD_append]
  simp [hk, show ¬ 16 + k < 8 by omega, show ¬ 16 + k - 8 < 8 by omega, show 16 + k - 8 - 8 = k by omega]

theorem argField_append (r : BitVec 16) (a o : BitVec 8) : argField (r ++ a ++ o) = a := by
  apply BitVec.eq_of_getLsbD_eq
  intro k hk
  rw [argField, BitVec.getLsbD_extractLsb', BitVec.getLsbD_append, BitVec.getLsbD_append]
  simp [hk]

theorem opcodeField_append (r : BitVec 16) (a o : BitVec 8) : opcodeField (r ++ a ++ o) = o := by
  apply BitVec.eq_of_getLsbD_eq
  intro k hk
  rw [opcodeField, BitVec.getLsbD_extractLsb', BitVec.getLsbD_append]
  simp [hk]

theorem word_eq_fields (w : CmdWord) : w = rsvField w ++ argField w ++ opcodeField w := by
  apply BitVec.eq_of_getLsbD_eq
  intro k hk
  rw [BitVec.getLsbD_append, BitVec.getLsbD_append, rsvField, argField, opcodeField, BitVec.getLsbD_extractLsb',
    BitVec.getLsbD_extractLsb', BitVec.getLsbD_extractLsb']
  by_cases h : k < 8
  · simp [h]
  · by_cases h2 : k < 16
    · simp [h, show k - 8 < 8 by omega, show 8 + (k - 8) = k by omega]
    · simp [h, show ¬ k - 8 < 8 by omega, show 16 + (k - 8 - 8) = k by omega, show k - 8 - 8 < 16 by omega]

theorem rsvField_encode (i : Instr) : rsvField (encode i) = 0 := rsvField_append _ _ _

theorem argField_encode (i : Instr) : argField (encode i) = BitVec.ofNat 8 i.arg := argField_append _ _ _

theorem opcodeField_encode (i : Instr) : opcodeField (encode i) = i.opcode := opcodeField_append _ _ _

end Sys2Proof
end

