-- ==== Sys2Proof/Laws/Operands.lean ====
section
/-! SUPPORT. What the operand checks accept, and the sweep's counts and byte masks by cases (R50, R51). -/

namespace Sys2Proof.Machine

theorem validMask_iff (m : Nat) : validMask m = true ↔ m ≤ 128 := by simp [validMask]

theorem validMask_eq_false_iff (m : Nat) : validMask m = false ↔ 128 < m := by simp [validMask]

theorem validTarget_iff (t : Nat) : validTarget t = true ↔ 1 ≤ t ∧ t ≤ 128 := by simp [validTarget]

theorem hostBits_le (p i : Nat) : hostBits p i ≤ 8 := by unfold hostBits; omega

/-- Bytes wholly before position `p` hold no host bits. -/
theorem hostBits_before {p i : Nat} (h : 8 * (i + 1) ≤ p) : hostBits p i = 0 := by unfold hostBits; omega

/-- Bytes wholly from position `p` on hold 8. -/
theorem hostBits_after {p i : Nat} (h : p ≤ 8 * i) : hostBits p i = 8 := by unfold hostBits; omega

/-- Bit `k` (weight `2^k`) of the host-bit byte mask is 1 exactly for the trailing `hb` bits. -/
theorem getLsbD_hostMask (p i k : Nat) : (hostMask p i).getLsbD k = decide (k < hostBits p i) := by
  have := hostBits_le p i
  simp only [hostMask, BitVec.getLsbD_ofNat, Nat.one_shiftLeft, Nat.testBit_two_pow_sub_one]
  by_cases hk : k < hostBits p i
  · simp [hk]; omega
  · simp [hk]

/-- In-byte position `j` of byte `i` is a host bit exactly when its bit position is `>= p` (R50, R3). -/
theorem getMsbD_hostMask (p i : Nat) {j : Nat} (hj : j < 8) :
    (hostMask p i).getMsbD j = decide (p ≤ 8 * i + j) := by
  rw [BitVec.getMsbD, getLsbD_hostMask]
  rw [decide_eq_true hj, Bool.true_and, decide_eq_decide, hostBits]
  omega

theorem getMsbD_netMask (p i : Nat) {j : Nat} (hj : j < 8) :
    (netMask p i).getMsbD j = decide (8 * i + j < p) := by
  rw [netMask, BitVec.getMsbD_not, getMsbD_hostMask p i hj, decide_eq_true hj, Bool.true_and, ← decide_not,
    decide_eq_decide]
  omega

theorem length_sweepFrom (n c : Nat) : (sweepFrom n c).length = n := by
  induction n generalizing c with
  | zero => rfl
  | succ n ih => simp [sweepFrom, ih]

end Sys2Proof.Machine
end

