-- ==== Sys2Proof/Laws/State.lean ====
section
/-! SUPPORT. What each update of the state does to each field, once. -/

namespace Sys2Proof.Machine

variable (s : State)

section
variable (w : CmdWord)
@[simp] theorem setCmd_cmd : (setCmd w s).cmd = w := rfl
@[simp] theorem setCmd_err : (setCmd w s).err = s.err := rfl
@[simp] theorem setCmd_aAddr : (setCmd w s).aAddr = s.aAddr := rfl
@[simp] theorem setCmd_aPfx : (setCmd w s).aPfx = s.aPfx := rfl
@[simp] theorem setCmd_rAddr : (setCmd w s).rAddr = s.rAddr := rfl
@[simp] theorem setCmd_sBegin : (setCmd w s).sBegin = s.sBegin := rfl
@[simp] theorem setCmd_sEnd : (setCmd w s).sEnd = s.sEnd := rfl
@[simp] theorem setCmd_sMask : (setCmd w s).sMask = s.sMask := rfl
@[simp] theorem setCmd_cBegin : (setCmd w s).cBegin = s.cBegin := rfl
@[simp] theorem setCmd_cEnd : (setCmd w s).cEnd = s.cEnd := rfl
@[simp] theorem setCmd_cMask : (setCmd w s).cMask = s.cMask := rfl
@[simp] theorem setCmd_cIdx : (setCmd w s).cIdx = s.cIdx := rfl
@[simp] theorem setCmd_depth : (setCmd w s).depth = s.depth := rfl
@[simp] theorem setCmd_requests : (setCmd w s).requests = s.requests := rfl
@[simp] theorem setCmd_reply : (setCmd w s).reply = s.reply := rfl
end

section
variable (c : BitVec 4)
@[simp] theorem setErr_cmd : (setErr c s).cmd = s.cmd := rfl
@[simp] theorem setErr_err : (setErr c s).err = c := rfl
@[simp] theorem setErr_aAddr : (setErr c s).aAddr = s.aAddr := rfl
@[simp] theorem setErr_aPfx : (setErr c s).aPfx = s.aPfx := rfl
@[simp] theorem setErr_rAddr : (setErr c s).rAddr = s.rAddr := rfl
@[simp] theorem setErr_sBegin : (setErr c s).sBegin = s.sBegin := rfl
@[simp] theorem setErr_sEnd : (setErr c s).sEnd = s.sEnd := rfl
@[simp] theorem setErr_sMask : (setErr c s).sMask = s.sMask := rfl
@[simp] theorem setErr_cBegin : (setErr c s).cBegin = s.cBegin := rfl
@[simp] theorem setErr_cEnd : (setErr c s).cEnd = s.cEnd := rfl
@[simp] theorem setErr_cMask : (setErr c s).cMask = s.cMask := rfl
@[simp] theorem setErr_cIdx : (setErr c s).cIdx = s.cIdx := rfl
@[simp] theorem setErr_depth : (setErr c s).depth = s.depth := rfl
@[simp] theorem setErr_requests : (setErr c s).requests = s.requests := rfl
@[simp] theorem setErr_reply : (setErr c s).reply = s.reply := rfl
end

section
variable (a : Addr)
@[simp] theorem setAAddr_cmd : (setAAddr a s).cmd = s.cmd := rfl
@[simp] theorem setAAddr_err : (setAAddr a s).err = s.err := rfl
@[simp] theorem setAAddr_aAddr : (setAAddr a s).aAddr = a := rfl
@[simp] theorem setAAddr_aPfx : (setAAddr a s).aPfx = s.aPfx := rfl
@[simp] theorem setAAddr_rAddr : (setAAddr a s).rAddr = s.rAddr := rfl
@[simp] theorem setAAddr_sBegin : (setAAddr a s).sBegin = s.sBegin := rfl
@[simp] theorem setAAddr_sEnd : (setAAddr a s).sEnd = s.sEnd := rfl
@[simp] theorem setAAddr_sMask : (setAAddr a s).sMask = s.sMask := rfl
@[simp] theorem setAAddr_cBegin : (setAAddr a s).cBegin = s.cBegin := rfl
@[simp] theorem setAAddr_cEnd : (setAAddr a s).cEnd = s.cEnd := rfl
@[simp] theorem setAAddr_cMask : (setAAddr a s).cMask = s.cMask := rfl
@[simp] theorem setAAddr_cIdx : (setAAddr a s).cIdx = s.cIdx := rfl
@[simp] theorem setAAddr_depth : (setAAddr a s).depth = s.depth := rfl
@[simp] theorem setAAddr_requests : (setAAddr a s).requests = s.requests := rfl
@[simp] theorem setAAddr_reply : (setAAddr a s).reply = s.reply := rfl
end

section
variable (p : BitVec 8)
@[simp] theorem setAPfx_cmd : (setAPfx p s).cmd = s.cmd := rfl
@[simp] theorem setAPfx_err : (setAPfx p s).err = s.err := rfl
@[simp] theorem setAPfx_aAddr : (setAPfx p s).aAddr = s.aAddr := rfl
@[simp] theorem setAPfx_aPfx : (setAPfx p s).aPfx = p := rfl
@[simp] theorem setAPfx_rAddr : (setAPfx p s).rAddr = s.rAddr := rfl
@[simp] theorem setAPfx_sBegin : (setAPfx p s).sBegin = s.sBegin := rfl
@[simp] theorem setAPfx_sEnd : (setAPfx p s).sEnd = s.sEnd := rfl
@[simp] theorem setAPfx_sMask : (setAPfx p s).sMask = s.sMask := rfl
@[simp] theorem setAPfx_cBegin : (setAPfx p s).cBegin = s.cBegin := rfl
@[simp] theorem setAPfx_cEnd : (setAPfx p s).cEnd = s.cEnd := rfl
@[simp] theorem setAPfx_cMask : (setAPfx p s).cMask = s.cMask := rfl
@[simp] theorem setAPfx_cIdx : (setAPfx p s).cIdx = s.cIdx := rfl
@[simp] theorem setAPfx_depth : (setAPfx p s).depth = s.depth := rfl
@[simp] theorem setAPfx_requests : (setAPfx p s).requests = s.requests := rfl
@[simp] theorem setAPfx_reply : (setAPfx p s).reply = s.reply := rfl
end

section
variable (a : Addr)
@[simp] theorem setRAddr_cmd : (setRAddr a s).cmd = s.cmd := rfl
@[simp] theorem setRAddr_err : (setRAddr a s).err = s.err := rfl
@[simp] theorem setRAddr_aAddr : (setRAddr a s).aAddr = s.aAddr := rfl
@[simp] theorem setRAddr_aPfx : (setRAddr a s).aPfx = s.aPfx := rfl
@[simp] theorem setRAddr_rAddr : (setRAddr a s).rAddr = a := rfl
@[simp] theorem setRAddr_sBegin : (setRAddr a s).sBegin = s.sBegin := rfl
@[simp] theorem setRAddr_sEnd : (setRAddr a s).sEnd = s.sEnd := rfl
@[simp] theorem setRAddr_sMask : (setRAddr a s).sMask = s.sMask := rfl
@[simp] theorem setRAddr_cBegin : (setRAddr a s).cBegin = s.cBegin := rfl
@[simp] theorem setRAddr_cEnd : (setRAddr a s).cEnd = s.cEnd := rfl
@[simp] theorem setRAddr_cMask : (setRAddr a s).cMask = s.cMask := rfl
@[simp] theorem setRAddr_cIdx : (setRAddr a s).cIdx = s.cIdx := rfl
@[simp] theorem setRAddr_depth : (setRAddr a s).depth = s.depth := rfl
@[simp] theorem setRAddr_requests : (setRAddr a s).requests = s.requests := rfl
@[simp] theorem setRAddr_reply : (setRAddr a s).reply = s.reply := rfl
end

section
variable (S : Subnet)
@[simp] theorem setSubnet_cmd : (setSubnet S s).cmd = s.cmd := rfl
@[simp] theorem setSubnet_err : (setSubnet S s).err = s.err := rfl
@[simp] theorem setSubnet_aAddr : (setSubnet S s).aAddr = s.aAddr := rfl
@[simp] theorem setSubnet_aPfx : (setSubnet S s).aPfx = s.aPfx := rfl
@[simp] theorem setSubnet_rAddr : (setSubnet S s).rAddr = s.rAddr := rfl
@[simp] theorem setSubnet_sBegin : (setSubnet S s).sBegin = S.first := rfl
@[simp] theorem setSubnet_sEnd : (setSubnet S s).sEnd = S.last := rfl
@[simp] theorem setSubnet_sMask : (setSubnet S s).sMask = BitVec.ofNat 8 S.mask := rfl
@[simp] theorem setSubnet_cBegin : (setSubnet S s).cBegin = s.cBegin := rfl
@[simp] theorem setSubnet_cEnd : (setSubnet S s).cEnd = s.cEnd := rfl
@[simp] theorem setSubnet_cMask : (setSubnet S s).cMask = s.cMask := rfl
@[simp] theorem setSubnet_cIdx : (setSubnet S s).cIdx = s.cIdx := rfl
@[simp] theorem setSubnet_depth : (setSubnet S s).depth = s.depth := rfl
@[simp] theorem setSubnet_requests : (setSubnet S s).requests = s.requests := rfl
@[simp] theorem setSubnet_reply : (setSubnet S s).reply = s.reply := rfl
end

section
variable (C : Subnet) (d : Nat)
@[simp] theorem setSequence_cmd : (setSequence C d s).cmd = s.cmd := rfl
@[simp] theorem setSequence_err : (setSequence C d s).err = s.err := rfl
@[simp] theorem setSequence_aAddr : (setSequence C d s).aAddr = s.aAddr := rfl
@[simp] theorem setSequence_aPfx : (setSequence C d s).aPfx = s.aPfx := rfl
@[simp] theorem setSequence_rAddr : (setSequence C d s).rAddr = s.rAddr := rfl
@[simp] theorem setSequence_sBegin : (setSequence C d s).sBegin = s.sBegin := rfl
@[simp] theorem setSequence_sEnd : (setSequence C d s).sEnd = s.sEnd := rfl
@[simp] theorem setSequence_sMask : (setSequence C d s).sMask = s.sMask := rfl
@[simp] theorem setSequence_cBegin : (setSequence C d s).cBegin = C.first := rfl
@[simp] theorem setSequence_cEnd : (setSequence C d s).cEnd = C.last := rfl
@[simp] theorem setSequence_cMask : (setSequence C d s).cMask = BitVec.ofNat 8 C.mask := rfl
@[simp] theorem setSequence_cIdx : (setSequence C d s).cIdx = 0 := rfl
@[simp] theorem setSequence_depth : (setSequence C d s).depth = BitVec.ofNat 8 d := rfl
@[simp] theorem setSequence_requests : (setSequence C d s).requests = s.requests := rfl
@[simp] theorem setSequence_reply : (setSequence C d s).reply = s.reply := rfl
end

section
variable (b e : Addr)
@[simp] theorem setNextChild_cmd : (setNextChild b e s).cmd = s.cmd := rfl
@[simp] theorem setNextChild_err : (setNextChild b e s).err = s.err := rfl
@[simp] theorem setNextChild_aAddr : (setNextChild b e s).aAddr = s.aAddr := rfl
@[simp] theorem setNextChild_aPfx : (setNextChild b e s).aPfx = s.aPfx := rfl
@[simp] theorem setNextChild_rAddr : (setNextChild b e s).rAddr = s.rAddr := rfl
@[simp] theorem setNextChild_sBegin : (setNextChild b e s).sBegin = s.sBegin := rfl
@[simp] theorem setNextChild_sEnd : (setNextChild b e s).sEnd = s.sEnd := rfl
@[simp] theorem setNextChild_sMask : (setNextChild b e s).sMask = s.sMask := rfl
@[simp] theorem setNextChild_cBegin : (setNextChild b e s).cBegin = b := rfl
@[simp] theorem setNextChild_cEnd : (setNextChild b e s).cEnd = e := rfl
@[simp] theorem setNextChild_cMask : (setNextChild b e s).cMask = s.cMask := rfl
@[simp] theorem setNextChild_cIdx : (setNextChild b e s).cIdx = s.cIdx + 1 := rfl
@[simp] theorem setNextChild_depth : (setNextChild b e s).depth = s.depth := rfl
@[simp] theorem setNextChild_requests : (setNextChild b e s).requests = s.requests := rfl
@[simp] theorem setNextChild_reply : (setNextChild b e s).reply = s.reply := rfl
end

section
variable (es : List Event)
@[simp] theorem setRequests_cmd : (setRequests es s).cmd = s.cmd := rfl
@[simp] theorem setRequests_err : (setRequests es s).err = s.err := rfl
@[simp] theorem setRequests_aAddr : (setRequests es s).aAddr = s.aAddr := rfl
@[simp] theorem setRequests_aPfx : (setRequests es s).aPfx = s.aPfx := rfl
@[simp] theorem setRequests_rAddr : (setRequests es s).rAddr = s.rAddr := rfl
@[simp] theorem setRequests_sBegin : (setRequests es s).sBegin = s.sBegin := rfl
@[simp] theorem setRequests_sEnd : (setRequests es s).sEnd = s.sEnd := rfl
@[simp] theorem setRequests_sMask : (setRequests es s).sMask = s.sMask := rfl
@[simp] theorem setRequests_cBegin : (setRequests es s).cBegin = s.cBegin := rfl
@[simp] theorem setRequests_cEnd : (setRequests es s).cEnd = s.cEnd := rfl
@[simp] theorem setRequests_cMask : (setRequests es s).cMask = s.cMask := rfl
@[simp] theorem setRequests_cIdx : (setRequests es s).cIdx = s.cIdx := rfl
@[simp] theorem setRequests_depth : (setRequests es s).depth = s.depth := rfl
@[simp] theorem setRequests_requests : (setRequests es s).requests = es := rfl
@[simp] theorem setRequests_reply : (setRequests es s).reply = s.reply := rfl
end

section
variable (r : Option Reply)
@[simp] theorem setReply_cmd : (setReply r s).cmd = s.cmd := rfl
@[simp] theorem setReply_err : (setReply r s).err = s.err := rfl
@[simp] theorem setReply_aAddr : (setReply r s).aAddr = s.aAddr := rfl
@[simp] theorem setReply_aPfx : (setReply r s).aPfx = s.aPfx := rfl
@[simp] theorem setReply_rAddr : (setReply r s).rAddr = s.rAddr := rfl
@[simp] theorem setReply_sBegin : (setReply r s).sBegin = s.sBegin := rfl
@[simp] theorem setReply_sEnd : (setReply r s).sEnd = s.sEnd := rfl
@[simp] theorem setReply_sMask : (setReply r s).sMask = s.sMask := rfl
@[simp] theorem setReply_cBegin : (setReply r s).cBegin = s.cBegin := rfl
@[simp] theorem setReply_cEnd : (setReply r s).cEnd = s.cEnd := rfl
@[simp] theorem setReply_cMask : (setReply r s).cMask = s.cMask := rfl
@[simp] theorem setReply_cIdx : (setReply r s).cIdx = s.cIdx := rfl
@[simp] theorem setReply_depth : (setReply r s).depth = s.depth := rfl
@[simp] theorem setReply_requests : (setReply r s).requests = s.requests := rfl
@[simp] theorem setReply_reply : (setReply r s).reply = r := rfl
end

@[simp] theorem resetEngine_cmd : (resetEngine s).cmd = State.reset.cmd := rfl
@[simp] theorem resetEngine_err : (resetEngine s).err = State.reset.err := rfl
@[simp] theorem resetEngine_aAddr : (resetEngine s).aAddr = State.reset.aAddr := rfl
@[simp] theorem resetEngine_aPfx : (resetEngine s).aPfx = State.reset.aPfx := rfl
@[simp] theorem resetEngine_rAddr : (resetEngine s).rAddr = State.reset.rAddr := rfl
@[simp] theorem resetEngine_sBegin : (resetEngine s).sBegin = State.reset.sBegin := rfl
@[simp] theorem resetEngine_sEnd : (resetEngine s).sEnd = State.reset.sEnd := rfl
@[simp] theorem resetEngine_sMask : (resetEngine s).sMask = State.reset.sMask := rfl
@[simp] theorem resetEngine_cBegin : (resetEngine s).cBegin = State.reset.cBegin := rfl
@[simp] theorem resetEngine_cEnd : (resetEngine s).cEnd = State.reset.cEnd := rfl
@[simp] theorem resetEngine_cMask : (resetEngine s).cMask = State.reset.cMask := rfl
@[simp] theorem resetEngine_cIdx : (resetEngine s).cIdx = State.reset.cIdx := rfl
@[simp] theorem resetEngine_depth : (resetEngine s).depth = State.reset.depth := rfl
@[simp] theorem resetEngine_requests : (resetEngine s).requests = s.requests := rfl
@[simp] theorem resetEngine_reply : (resetEngine s).reply = State.reset.reply := rfl

end Sys2Proof.Machine
end

