-- ==== Sys2Proof/Laws/Ops.lean ====
section
/-! SUPPORT. How a command ends: both ends give a next state (R84, R104). -/

namespace Sys2Proof.Machine

theorem ok_eq (s : State) : ok s = .next { s with err := 0 } := rfl

theorem raise_eq (e : ErrKind) (s : State) : raise e s = .next { s with err := errCode e } := rfl

theorem ok_next {s t : State} : ok s = .next t ↔ t = { s with err := 0 } :=
  ⟨fun h => by injection h with h; exact h.symm, fun h => h ▸ rfl⟩

theorem raise_next {e : ErrKind} {s t : State} : raise e s = .next t ↔ t = { s with err := errCode e } :=
  ⟨fun h => by injection h with h; exact h.symm, fun h => h ▸ rfl⟩

/-- Every error has a code of its own, and none is the code of success (R80). -/
theorem errCode_ne_zero (e : ErrKind) : errCode e ≠ 0 := by cases e <;> decide

end Sys2Proof.Machine
end

