-- ==== Sys2Proof/Laws/Exec.lean ====
section
/-! SUPPORT. One lemma for each meaning: everything it can do, as an equation. -/

namespace Sys2Proof.Machine

theorem subnetFromAddress_eq (a : Addr) (m : Nat) :
    subnetFromAddress a m = if m ≤ 128 then .ok (rangeOf a m) else .error .invalidMask := by
  simp [subnetFromAddress, validMask]

theorem buildSubnet_eq (m : Nat) (s : State) :
    buildSubnet m s = if m ≤ 128 then ok (setSubnet (rangeOf s.aAddr m) s) else raise .invalidMask s := by
  rw [buildSubnet, subnetFromAddress_eq]
  by_cases h : m ≤ 128 <;> simp [h]

theorem splitError_eq (m t : Nat) :
    splitError m t =
      if t < 1 ∨ 128 < t then some .invalidMask else if t < m then some .maskNotDeepenable else none := by
  have : (¬ (validTarget t = true)) ↔ (t < 1 ∨ 128 < t) := by rw [validTarget_iff]; omega
  simp only [splitError, this, gt_iff_lt]

theorem splitError_eq_none {m t : Nat} : splitError m t = none ↔ 1 ≤ t ∧ m ≤ t ∧ t ≤ 128 := by
  rw [splitError_eq]
  split
  · simp; omega
  · split <;> simp <;> omega

theorem exec_mask (p : Nat) (s : State) :
    exec (.mask p) s = if p ≤ 128 then ok (setRAddr (maskAddress p) s) else raise .invalidMask s := by
  simp [exec, execMask, validMask]

theorem exec_subnet (m : Nat) (s : State) : exec (.subnet m) s = buildSubnet m s := rfl

theorem exec_subnetp (s : State) : exec .subnetp s = buildSubnet s.aPfx.toNat s := rfl

theorem exec_succ (s : State) : exec .succ s = ok (setRAddr (successor s.aAddr) s) := rfl

theorem exec_split (t : Nat) (s : State) :
    exec (.split t) s =
      match splitError s.sMask.toNat t with
      | some e => raise e s
      | none => ok (setSequence (rangeOf s.sBegin t) (t - s.sMask.toNat) s) := rfl

theorem exec_next (s : State) :
    exec .next s =
      if isLast s then raise .endOfSequence s
      else
        ok (setNextChild (rangeBegin (successor s.cEnd) s.cMask.toNat) (rangeEnd (successor s.cEnd) s.cMask.toNat) s) :=
  rfl

/-- The two ends of the carry loop at one byte: it stops there, or the byte was 0xff and the carry goes on. -/
theorem carryChain_succ (a : Addr) (n : Nat) (r : Addr) :
    carryChain a (n + 1) r =
      if byte a n + 1 = 0 then carryChain a n (setByte r n (byte a n + 1)) else setByte r n (byte a n + 1) := rfl

theorem byte_rangeBegin (a : Addr) (m : Nat) {i : Nat} (hi : i < 16) :
    byte (rangeBegin a m) i = byte a i &&& netMask m i := byte_ofBytes _ hi

theorem byte_rangeEnd (a : Addr) (m : Nat) {i : Nat} (hi : i < 16) :
    byte (rangeEnd a m) i = byte a i ||| hostMask m i := byte_ofBytes _ hi

theorem byte_maskAddress (p : Nat) {i : Nat} (hi : i < 16) : byte (maskAddress p) i = netMask p i := byte_ofBytes _ hi

theorem isLast_iff (s : State) : isLast s = true ↔ s.cIdx.toNat = 2 ^ s.depth.toNat - 1 := by
  simp [isLast, Nat.one_shiftLeft]

end Sys2Proof.Machine
end

