-- ==== Sys2Proof/Laws/PerInstr.lean ====
section
/-! SUPPORT. Statements about every command as syntax, one lemma per constructor. -/

namespace Sys2Proof.Laws.EncodesInRow

/-- The command's word is selected by the command's own row of the opcode map (R42), that row stands in the map, and it
carries the command's mnemonic. -/
def Statement (i : Instr) : Prop :=
  i.row.selects (encode i) = true ∧ i.row ∈ opcodeTable ∧ i.row.mnemonic = i.mnemonic

/-- A word whose `ARG` bits the row leaves free is selected whatever `ARG` is. -/
theorem selects_of_operand (arg op : BitVec 8) :
    (0#16 ++ arg ++ op) &&& (0xFFFF00FF : CmdWord) = 0#16 ++ 0#8 ++ op := by
  apply BitVec.eq_of_getLsbD_eq
  intro k hk
  rw [BitVec.getLsbD_and]
  simp only [BitVec.getLsbD_append]
  by_cases h1 : k < 8
  · have : (0xFFFF00FF : CmdWord).getLsbD k = true := by interval_cases k <;> rfl
    simp only [h1, ↓reduceIte, this, Bool.and_true]
  · by_cases h2 : k < 16
    · have : (0xFFFF00FF : CmdWord).getLsbD k = false := by interval_cases k <;> first | omega | rfl
      rw [this, Bool.and_false]
      simp [h1, show k - 8 < 8 by omega]
    · simp [h1, show ¬ k - 8 < 8 by omega]

theorem mask (p : Nat) : Statement (.mask p) :=
  ⟨beq_iff_eq.mpr (selects_of_operand (BitVec.ofNat 8 p) 0x01), by simp [opcodeTable, Instr.row], rfl⟩

theorem subnet (m : Nat) : Statement (.subnet m) :=
  ⟨beq_iff_eq.mpr (selects_of_operand (BitVec.ofNat 8 m) 0x02), by simp [opcodeTable, Instr.row], rfl⟩

theorem subnetp : Statement .subnetp := ⟨by decide, by decide, rfl⟩

theorem succ : Statement .succ := ⟨by decide, by decide, rfl⟩

theorem split (t : Nat) : Statement (.split t) :=
  ⟨beq_iff_eq.mpr (selects_of_operand (BitVec.ofNat 8 t) 0x05), by simp [opcodeTable, Instr.row], rfl⟩

theorem next : Statement .next := ⟨by decide, by decide, rfl⟩

end Sys2Proof.Laws.EncodesInRow
end

