-- ==== Sys2Proof/Laws/Port.lean ====
section
/-! SUPPORT. What serving each kind of event does, and what a step is. -/

namespace Sys2Proof.Machine

theorem step_idle {s : State} (h : s.requests = []) : step s = .next s := by simp [step, serveNext, h]

theorem step_serves {s : State} {e : Event} {es : List Event} (h : s.requests = e :: es) :
    step s = serve e (setRequests es s) := by simp [step, serveNext, h]

theorem serve_regRead (n : RegNum) (s : State) :
    serve (.regRead n) s = .next (setReply (some ⟨n, regRead n s⟩) s) := rfl

theorem serve_reset (s : State) : serve .reset s = .next (resetEngine s) := rfl

theorem serve_issue (w : CmdWord) (s : State) :
    serve (issue w) s = execWord w (setCmd w (setReply none s)) := rfl

theorem serve_wrAAddr (a : Addr) (s : State) :
    serve (.regWrite 0x02 a) s = .next (setAAddr a (setReply none s)) := rfl

theorem serve_wrAPfx (p : BitVec 8) (s : State) :
    serve (.regWrite 0x03 p) s = .next (setAPfx p (setReply none s)) := rfl

theorem execWord_ok {w : CmdWord} {i : Instr} (h : decode w = .ok i) (s : State) : execWord w s = exec i s := by
  simp [execWord, h]

theorem execWord_error {w : CmdWord} {e : Illegal} (h : decode w = .error e) (s : State) :
    execWord w s = raise .illegalCommand s := by
  simp [execWord, h]

/-- A register write issues a command, stores an operand, or does nothing. -/
theorem writeReg_cases (r : Option Reg) (v : BitVec (widthOf r)) (s : State) :
    (∃ w, r = some .cmd ∧ writeReg r v s = execWord w (setCmd w s)) ∨
      (∃ a, r = some .aAddr ∧ writeReg r v s = .next (setAAddr a s)) ∨
      (∃ p, r = some .aPfx ∧ writeReg r v s = .next (setAPfx p s)) ∨ writeReg r v s = .next s := by
  match r, v with
  | some .cmd, w => exact .inl ⟨w, rfl, rfl⟩
  | some .aAddr, a => exact .inr (.inl ⟨a, rfl, rfl⟩)
  | some .aPfx, p => exact .inr (.inr (.inl ⟨p, rfl, rfl⟩))
  | some .status, _ | some .rAddr, _ | some .sBegin, _ | some .sEnd, _ | some .sMask, _ | some .cBegin, _
  | some .cEnd, _ | some .cMask, _ | some .cIdx, _ | some .cCount, _ | none, _ => exact .inr (.inr (.inr rfl))

/-- A register read does not see the host's side of the port. -/
theorem readReg_setRequests (r : Option Reg) (es : List Event) (s : State) :
    readReg r (setRequests es s) = readReg r s := by
  match r with
  | none => rfl
  | some r => cases r <;> rfl

/-- A register read does not see what the host was told before. -/
theorem readReg_setReply (r : Option Reg) (v : Option Reply) (s : State) :
    readReg r (setReply v s) = readReg r s := by
  match r with
  | none => rfl
  | some r => cases r <;> rfl

end Sys2Proof.Machine
end

