-- ==== Sys2Proof/Tests/Slice0.lean ====
section
/-! SUPPORT. Tests of one step each, expected results from spec/95_test_vectors.md and spec/30_encoding.md; a smoke test of
WellFormed; and the states and operands that meet the hypotheses of the statements. -/

namespace Sys2Proof.Tests

open Sys2Proof.Machine

/-- One field of the next state an outcome answers. -/
def after {α : Type} (f : State → α) : Host.Outcome State Fault Refusal → Option α
  | .next t => some (f t)
  | .fault _ => none
  | .refused _ => none

/-! ## WellFormed: an ill-formed operand of each operand-taking command is refused (R41) -/

theorem test_wellFormed_refuses_mask : ¬ (Instr.mask 256).WellFormed := by decide
theorem test_wellFormed_refuses_subnet : ¬ (Instr.subnet 256).WellFormed := by decide
theorem test_wellFormed_refuses_split : ¬ (Instr.split 384).WellFormed := by decide
theorem test_wellFormed_takes_255 :
    (Instr.mask 255).WellFormed ∧ (Instr.subnet 255).WellFormed ∧ (Instr.split 255).WellFormed ∧
      Instr.subnetp.WellFormed ∧ Instr.succ.WellFormed ∧ Instr.next.WellFormed := by decide

/-! ## Decoding: each command's word written out bit by bit as `RSV ++ ARG ++ OPCODE` (R40, R42) -/

theorem test_decode_mask : decode (0b0000000000000000#16 ++ 0b01000001#8 ++ 0b00000001#8) = .ok (.mask 65) := by decide
theorem test_decode_subnet : decode (0b0000000000000000#16 ++ 0b10000001#8 ++ 0b00000010#8) = .ok (.subnet 129) := by decide
theorem test_decode_subnetp : decode (0b0000000000000000#16 ++ 0b00000000#8 ++ 0b00000011#8) = .ok .subnetp := by decide
theorem test_decode_succ : decode (0b0000000000000000#16 ++ 0b00000000#8 ++ 0b00000100#8) = .ok .succ := by decide
theorem test_decode_split : decode (0b0000000000000000#16 ++ 0b00111111#8 ++ 0b00000101#8) = .ok (.split 63) := by decide
theorem test_decode_next : decode (0b0000000000000000#16 ++ 0b00000000#8 ++ 0b00000110#8) = .ok .next := by decide

/-- V-ILL-1 to V-ILL-8. -/
theorem test_decode_illegal :
    decode 0x00000000 = .error .unknownOpcode ∧ decode 0x00000007 = .error .unknownOpcode ∧
      decode 0x000000FF = .error .unknownOpcode ∧ decode 0xFFFFFFFF = .error .reservedBits ∧
      decode 0x00014001 = .error .reservedBits ∧ decode 0x80000004 = .error .reservedBits ∧
      decode 0x00000103 = .error .strayArg ∧ decode 0x0000FF06 = .error .strayArg := by decide

theorem test_decodeTableWord : decodeTableWord 32 0x00004105 = some (.split 65) ∧ decodeTableWord 32 7 = none := by decide

/-- A word placed by `withFetchWord` is the first command the machine runs after reset: V-REG-10. -/
theorem test_withFetchWord_runs_first :
    after (·.rAddr) (step (State.reset.withFetchWord 32 0x00000004)) = some 1 := by decide

/-! ## Commands: vectors of spec/95_test_vectors.md -/

/-- The operand of section 2.3. -/
def operand : State := { State.reset with aAddr := 0x20010db885a3123456789abcdef01357, aPfx := 61 }

/-- V-MASK-63. -/
theorem test_mask_63 :
    after (·.rAddr) (exec (.mask 63) State.reset) = some 0xfffffffffffffffe0000000000000000 := by decide
/-- V-MASK-129. -/
theorem test_mask_129 :
    after (fun t => (t.rAddr, t.err)) (exec (.mask 129) { State.reset with rAddr := 0x1234 }) = some (0x1234, 2) := by
  decide
/-- V-SUB-100. -/
theorem test_subnet_100 :
    after (fun t => (t.sMask, t.sBegin, t.sEnd)) (exec (.subnet 100) operand) =
      some (100, 0x20010db885a3123456789abcd0000000, 0x20010db885a3123456789abcdfffffff) := by decide
/-- V-SUB-129. -/
theorem test_subnet_129 :
    after (fun t => (t.err, t.sMask, t.sEnd)) (exec (.subnet 129) operand) = some (2, 128, 0) := by decide
/-- V-SUBP-61. -/
theorem test_subnetp_61 :
    after (fun t => (t.sMask, t.sBegin, t.sEnd)) (exec .subnetp operand) =
      some (61, 0x20010db885a312300000000000000000, 0x20010db885a31237ffffffffffffffff) := by decide
/-- V-SUBP-200. -/
theorem test_subnetp_200 :
    after (fun t => (t.err, t.aPfx, t.sMask)) (exec .subnetp { operand with aPfx := 200 }) = some (2, 200, 128) := by
  decide
/-- V-SUCC-4: the carry goes through ten bytes. -/
theorem test_succ_carry :
    after (·.rAddr) (exec .succ { State.reset with aAddr := 0x20010db80000ffffffffffffffffffff }) =
      some 0x20010db8000100000000000000000000 := by decide
/-- V-SUCC-6: the wrap. -/
theorem test_succ_wrap :
    after (fun t => (t.rAddr, t.err)) (exec .succ { State.reset with aAddr := 0xffffffffffffffffffffffffffffffff, err := 5 }) =
      some (0, 0) := by decide

/-- The state of V-SPL-B before its `SPLIT`. -/
def parent119 : State :=
  { State.reset with
    sMask := 119, sBegin := 0x20010db800000000000000000000fe00, sEnd := 0x20010db800000000000000000000ffff }

/-- V-SPL-B, child 0. -/
theorem test_split_121 :
    after (fun t => (t.cMask, t.cBegin, t.cEnd, t.cIdx, t.depth, childCount t)) (exec (.split 121) parent119) =
      some (121, 0x20010db800000000000000000000fe00, 0x20010db800000000000000000000fe7f, 0, 2, 4) := by decide
/-- V-SPL-E1 (error 3), V-SPL-E3 and V-SPL-E4 (error 2). -/
theorem test_split_errors :
    after (·.err) (exec (.split 118) parent119) = some 3 ∧ after (·.err) (exec (.split 0) parent119) = some 2 ∧
      after (·.err) (exec (.split 129) parent119) = some 2 := by decide

/-- V-SPL-B with child 1 current. -/
def child1 : State :=
  { parent119 with
    cMask := 121, cBegin := 0x20010db800000000000000000000fe80, cEnd := 0x20010db800000000000000000000feff, cIdx := 1,
    depth := 2 }

/-- V-SPL-B, child 2: the carry crosses a byte. -/
theorem test_next_carry :
    after (fun t => (t.cBegin, t.cEnd, t.cIdx, isLast t)) (exec .next child1) =
      some (0x20010db800000000000000000000ff00, 0x20010db800000000000000000000ff7f, 2, false) := by decide
/-- V-REG-6. -/
theorem test_next_at_end : after status (exec .next State.reset) = some 0x00000015 := by decide

/-! ## The host port -/

/-- V-REG-1, V-REG-3, V-REG-5, V-REG-13. -/
theorem test_regRead :
    regRead 0x01 State.reset = 0x00000010#32 ∧ regRead 0x03 State.reset = 128#8 ∧ regRead 0x07 State.reset = 128#8 ∧
      regRead 0x0A State.reset = 128#8 ∧ regRead 0x0C State.reset = 1#129 ∧ regRead 0x0D State.reset = 0#129 ∧
      regRead 0xFF State.reset = 0#129 := ⟨rfl, rfl, rfl, rfl, rfl, rfl, rfl⟩
/-- V-REG-11, V-REG-12, V-REG-14: ignored writes. -/
theorem test_regWrite_ignored :
    after id (serve (.regWrite 0x01 0xFFFFFFFF#32) child1) = some child1 ∧
      after id (serve (.regWrite 0x05 0x7#128) child1) = some child1 ∧
      after id (serve (.regWrite 0x40 0x7#129) child1) = some child1 := by decide
/-- V-REG-15, V-REG-16. -/
theorem test_regWrite_operands :
    after (fun t => (t.aPfx, t.err)) (serve (.regWrite 0x03 255#8) { State.reset with err := 3 }) = some (255, 3) ∧
      after (fun t => (byte t.aAddr 0, byte t.aAddr 15))
        (serve (.regWrite 0x02 0x0102030405060708090a0b0c0d0e0f10#128) State.reset) = some (0x01, 0x10) := by decide

/-- The expanded form of source scenario 1 (R7). -/
theorem test_xfmt : xfmt 0xfec0bebecafe00000000000000000000 = "fec0:bebe:cafe:0000:0000:0000:0000:0000".toList := by
  decide

/-! ## Witnesses: states and operands that meet the hypotheses of the statements -/

/-- A parent of mask 119 and its child 1: not only the reset state meets the invariants of R28. -/
theorem witness_inv : child1.Inv where
  subnet := ⟨by decide, by decide, fun q h1 h2 => by
    have h : ∀ q, q < 128 → 119 ≤ q → child1.sBegin.getMsbD q = false ∧ child1.sEnd.getMsbD q = true := by decide
    exact h q h2 h1⟩
  cMask_pos := by decide
  depth_le := by decide
  child := ⟨by decide, by decide, fun q h1 h2 => by
    have h : ∀ q, q < 128 → 121 ≤ q → child1.cBegin.getMsbD q = false ∧ child1.cEnd.getMsbD q = true := by decide
    exact h q h2 h1⟩
  cIdx_le := by decide
  index := by decide
  err_code := by decide

/-- Source scenario 2 with child 0 current: P2 after its first line. -/
def scenario2 : State :=
  { State.reset with
    cmd := 0x00004105, aAddr := 0xfec0bebecafe00000000000000000000, aPfx := 64,
    rAddr := 0xffffffffffffffff0000000000000000, sBegin := 0xfec0bebecafe00000000000000000000,
    sEnd := 0xfec0bebecafe0000ffffffffffffffff, sMask := 64, cBegin := 0xfec0bebecafe00000000000000000000,
    cEnd := 0xfec0bebecafe00007fffffffffffffff, cMask := 65, depth := 1 }

/-- The invariants hold of it too: a running sequence whose carry passes seven bytes. -/
theorem witness_inv_carry : scenario2.Inv where
  subnet := ⟨by decide, by decide, fun q h1 h2 => by
    have h : ∀ q, q < 128 → 64 ≤ q → scenario2.sBegin.getMsbD q = false ∧ scenario2.sEnd.getMsbD q = true := by decide
    exact h q h2 h1⟩
  cMask_pos := by decide
  depth_le := by decide
  child := ⟨by decide, by decide, fun q h1 h2 => by
    have h : ∀ q, q < 128 → 65 ≤ q → scenario2.cBegin.getMsbD q = false ∧ scenario2.cEnd.getMsbD q = true := by decide
    exact h q h2 h1⟩
  cIdx_le := by decide
  index := by decide
  err_code := by decide

/-- `child1` with one request of the host. -/
def asking (e : Event) : State := { child1 with requests := [e] }

/-- The Subnet of V-SPL-B. -/
def parentSubnet : Subnet := ⟨119, 0x20010db800000000000000000000fe00, 0x20010db800000000000000000000ffff⟩

theorem witness_parentSubnet_valid : parentSubnet.Valid := witness_inv.subnet

theorem witness_EncodeGivesBackTheDecodedWord :
    decode 0x0000FF05 = .ok (.split 255) ∧ decode 0x00000006 = .ok .next := by decide

/-- One word for each case of the decoder, `ARG` at its least and greatest. -/
theorem witness_DecoderFollowsItsCases :
    (0x00010001#32).extractLsb' 16 16 ≠ 0 ∧
      (∀ w ∈ [0x0000FF01#32, 0x0000FF02#32, 0x00000003#32, 0x0000FF03#32, 0x00000004#32, 0x00000104#32, 0x00000005#32,
        0x00000006#32, 0x00000106#32, 0x0000FF00#32, 0x00000007#32, 0x000000FF#32], w.extractLsb' 16 16 = 0) ∧
      decode 0x00000106 = .error .strayArg ∧ (⟨"NEXT", 6, 0xFFFFFFFF⟩ : OpcodeRow) ∈ opcodeTable ∧
      (⟨"NEXT", 6, 0xFFFFFFFF⟩ : OpcodeRow).selects 6 = true :=
  ⟨by decide, by simp, by decide, by decide, by decide⟩

theorem witness_StepRunsTheDecodedCommand :
    (asking (.regWrite 0x00 0x00008001#32)).requests = [.regWrite 0x00 0x00008001#32] ∧
      decode 0x00008001 = .ok (.mask 128) := by decide

/-- One word for each reason, at the edge of it. -/
theorem witness_IllegalWordChangesOnlyCmdAndErr :
    (∀ w : CmdWord, (asking (.regWrite 0x00 w)).requests = .regWrite 0x00 w :: []) ∧
      (0x00010001#32).extractLsb' 16 16 ≠ 0 ∧ ((0x00000000#32).extractLsb' 0 8).toNat < 0x01 ∧
      0x06 < ((0x00000007#32).extractLsb' 0 8).toNat ∧ ((0x00000103#32).extractLsb' 0 8).toNat = 0x03 ∧
      (0x00000103#32).extractLsb' 8 8 ≠ 0 ∧ ((0x0000FF04#32).extractLsb' 0 8).toNat = 0x04 ∧
      ((0x00000106#32).extractLsb' 0 8).toNat = 0x06 :=
  ⟨fun _ => rfl, by decide, by decide, by decide, by decide, by decide, by decide, by decide⟩

theorem witness_RegReadReturnsTheRegister :
    (asking (.regRead 0x0C)).requests = [.regRead 0x0C] ∧ (asking (.regRead 0xFF)).requests = [.regRead 0xFF] := by decide

/-- Each kind of write; and a sequence with two children still to come. -/
theorem witness_RegWriteStoresOrExecutes :
    (asking (.regWrite 0x02 0#128)).requests = [.regWrite 0x02 0#128] ∧
      (asking (.regWrite 0x03 255#8)).requests = [.regWrite 0x03 255#8] ∧
      (asking (.regWrite 0x00 0xFFFFFFFF#32)).requests = [.regWrite 0x00 0xFFFFFFFF#32] ∧
      child1.cIdx.toNat + 2 ≤ 2 ^ child1.depth.toNat - 1 := ⟨rfl, rfl, rfl, by decide⟩

/-- A read-only register at each end of the map, and the unimplemented numbers at both ends. -/
theorem witness_ReadOnlyAndUnimplementedAreIgnored :
    (∀ n ∈ [0x01#8, 0x04#8, 0x0C#8, 0x0D#8, 0xFF#8], n ≠ 0x00 ∧ n ≠ 0x02 ∧ n ≠ 0x03) ∧
      (asking (.regWrite 0x0C 0#129)).requests = [.regWrite 0x0C 0#129] ∧
      (asking (.regWrite 0x0D 1#129)).requests = [.regWrite 0x0D 1#129] ∧ 0x0D ≤ (0x0D#8).toNat ∧
      0x0D ≤ (0xFF#8).toNat ∧ (asking (.regRead 0x0D)).requests = [.regRead 0x0D] := by decide

theorem witness_IdleEngineHoldsItsRegisters : child1.requests = [] := rfl

theorem witness_ResetEventRestoresEveryRegister : (asking .reset).requests = [.reset] := rfl

/-- A state that meets the invariants and steps to another: it reads a register, or its `NEXT` succeeds. -/
theorem witness_StepKeepsTheInvariants :
    child1.Inv ∧ step child1 = .next child1 ∧
      after (·.cIdx) (step (asking (.regWrite 0x00 0x00000006#32))) = some 2 := ⟨witness_inv, rfl, by decide⟩

/-- The least and the greatest depth. -/
theorem witness_ChildCountIsTwoToTheDepth :
    State.reset.depth.toNat ≤ 128 ∧ ({ child1 with depth := 128 } : State).depth.toNat ≤ 128 ∧ child1.Inv :=
  ⟨by decide, by decide, witness_inv⟩

theorem witness_AddressIsItsBytesInNetworkOrder : 0 < 16 ∧ 15 < 16 ∧ 7 < 8 ∧ 0 < 128 ∧ 127 < 128 := by decide

theorem witness_ExpandedFormIsInjective : 15 < 16 ∧ 6 < 7 ∧ 7 < 8 ∧ 3 < 4 ∧ xfmt 0 = xfmt 0 :=
  ⟨by decide, by decide, by decide, by decide, rfl⟩

/-- A prefix at each end of the domain, and a byte that is partly host bits. -/
theorem witness_SweepHandsOutTheHostBits :
    0 ≤ 128 ∧ 128 ≤ 128 ∧ 0 < hostBits 65 8 ∧ hostBits 65 8 < 8 ∧ 7 < 8 ∧ 8 < 9 := by decide

theorem witness_MaskAddressHasTheLeadingBitsSet : 0 ≤ 128 ∧ 128 ≤ 128 ∧ 15 < 16 ∧ 127 < 128 := by decide

theorem witness_MaskPatternProperties : 0 ≤ 128 ∧ 128 ≤ 128 ∧ 127 < 128 ∧ maskAddress 128 = maskAddress 128 :=
  ⟨by decide, by decide, by decide, rfl⟩

/-- Both sides of the range check. -/
theorem witness_MaskCommand : 255 ≤ 255 ∧ 0 ≤ 128 ∧ 128 ≤ 128 ∧ 128 < 129 ∧ 16 ≤ 16 ∧ 15 < 16 := by decide

theorem witness_SubnetFromAddressByBytes : 128 < 129 ∧ 0 ≤ 128 ∧ 128 ≤ 128 ∧ 15 < 16 := by decide

theorem witness_RangeOfAnAddress :
    0 ≤ 128 ∧ 128 ≤ 128 ∧ 127 < 128 ∧ (rangeOf 0x7 128).Contains 0x7 ∧ 119 ≤ 121 := by decide

theorem witness_RangeThroughTheMaskPattern :
    128 ≤ 128 ∧ 15 < 16 ∧ exec (.subnet 129) child1 = .next { child1 with err := 2 } := ⟨by decide, by decide, rfl⟩

theorem witness_SubnetCommand :
    255 ≤ 255 ∧ 0 ≤ 128 ∧ 128 ≤ 128 ∧ 128 < 129 ∧ 16 ≤ 16 ∧ 15 < 16 ∧
      ({ State.reset with aAddr := 0xfec0bebecafe00000000000000000000 } : State).aAddr =
        0xfec0bebecafe00000000000000000000 := by decide

theorem witness_SubnetpCommand :
    State.reset.aPfx.toNat ≤ 128 ∧ 128 < ({ operand with aPfx := 129 } : State).aPfx.toNat ∧ (1#8) ≠ 0 ∧
      operand.aAddr = 0x20010db885a3123456789abcdef01357 ∧ operand.aPfx = 61 := by decide

/-- No, one and all trailing bytes of 0xff. -/
theorem witness_SuccessorChangesTheTrailingBytes :
    byte 0 15 ≠ 0xff ∧ (∀ i, i < 16 → 16 ≤ i + 1 → byte 0xff i = 0xff) ∧ byte 0xff 14 ≠ 0xff ∧
      ∀ i, i < 16 → byte (BitVec.allOnes 128) i = 0xff := by decide

theorem witness_SuccessorAddsOneAndWraps :
    ({ child1 with aAddr := BitVec.allOnes 128 } : State).aAddr = BitVec.allOnes 128 := rfl

/-- No, some and all low bits of ones. -/
theorem witness_SuccessorProperties :
    (0 : Addr) ≠ BitVec.allOnes 128 ∧ (0 : Addr).toNat % 2 ^ 0 = 2 ^ 0 - 1 ∧ (0xff : Addr).toNat % 2 ^ 8 = 2 ^ 8 - 1 ∧
      (BitVec.allOnes 128).toNat % 2 ^ 128 = 2 ^ 128 - 1 ∧ 128 ≤ 128 := by decide

theorem witness_SuccCommand : (1#8) ≠ 0 ∧ (255#8) ≠ 0 := by decide

/-- Targets at both ends, a parent shallower, equal and deeper. -/
theorem witness_SplitSubnetByRecurrence :
    0 < 1 ∧ 128 < 129 ∧ (1 ≤ 118 ∧ 118 ≤ 128 ∧ 118 < parentSubnet.mask) ∧
      (1 ≤ 119 ∧ 119 ≤ 128 ∧ parentSubnet.mask ≤ 119) ∧ parentSubnet.mask ≤ 128 ∧
      0 + 1 < 2 ^ (120 - parentSubnet.mask) := by decide

theorem witness_EqualMasksGiveTheParent :
    (parentSubnet.Valid ∧ 1 ≤ parentSubnet.mask) ∧ (⟨0, 0, BitVec.allOnes 128⟩ : Subnet).mask = 0 ∧
      splitSubnet parentSubnet 118 = .error .maskNotDeepenable :=
  ⟨⟨witness_parentSubnet_valid, by decide⟩, rfl, rfl⟩

theorem witness_CountIsExactAtEveryDepth :
    (1 ≤ 119 ∧ 119 ≤ 128 ∧ parent119.sMask.toNat ≤ 119) ∧ parent119.sMask.toNat ≤ 128 ∧
      ({ State.reset with sMask := 0 } : State).sMask.toNat ≤ 1 := by decide

/-- The equal mask, and the deepest one. -/
theorem witness_ChildrenPartitionTheParent :
    parentSubnet.Valid ∧ 1 ≤ 119 ∧ parentSubnet.mask ≤ 119 ∧ parentSubnet.mask ≤ 128 ∧ 128 ≤ 128 ∧
      0 + 1 < splitCount parentSubnet 120 ∧ (0 < 1 ∧ 1 < splitCount parentSubnet 120) :=
  ⟨witness_parentSubnet_valid, by decide, by decide, by decide, by decide, by decide, by decide⟩

/-- The last child. -/
theorem witness_ChildrenHaveTheClosedForm :
    parentSubnet.Valid ∧ 1 ≤ 121 ∧ parentSubnet.mask ≤ 121 ∧ 121 ≤ 128 ∧ 3 < splitCount parentSubnet 121 :=
  ⟨witness_parentSubnet_valid, by decide, by decide, by decide, by decide⟩

theorem witness_SplitCommand :
    255 ≤ 255 ∧ (1 ≤ 119 ∧ 119 ≤ 128 ∧ child1.sMask.toNat ≤ 119 ∧ child1.Inv ∧ 119 = child1.sMask.toNat) ∧
      child1.sMask.toNat ≤ 128 ∧ 128 < 129 ∧ (1 ≤ 118 ∧ 118 < child1.sMask.toNat) ∧ 127 ≠ 128 ∧
      ({ child1 with sMask := 64, sBegin := 0xfec0bebecafe00000000000000000000 } : State).sMask = 64 :=
  ⟨by decide, ⟨by decide, by decide, by decide, witness_inv, rfl⟩, by decide, by decide, by decide, by decide, rfl⟩

/-- A carry through whole bytes under the invariants: 7 of them, the first at byte 9. -/
theorem witness_NextCommand_carry :
    scenario2.Inv ∧ scenario2.cIdx.toNat ≠ 2 ^ scenario2.depth.toNat - 1 ∧
      16 ≤ 9 + (128 - scenario2.cMask.toNat) / 8 := ⟨witness_inv_carry, by decide, by decide⟩

/-- A child that is not the last, one that is, a one-child split, and children of one address. -/
theorem witness_NextCommand :
    child1.cIdx.toNat ≠ 2 ^ child1.depth.toNat - 1 ∧ child1.Inv ∧
      State.reset.cIdx.toNat = 2 ^ State.reset.depth.toNat - 1 ∧ (1#8) ≠ 0 ∧
      (1 ≤ State.reset.sMask.toNat ∧ State.reset.sMask.toNat ≤ 128 ∧
        exec (.split State.reset.sMask.toNat) State.reset = .next State.reset) ∧
      (({ child1 with cMask := 128 } : State).cMask = 128 ∧
        ({ child1 with cMask := 128 } : State).cIdx.toNat ≠ 2 ^ ({ child1 with cMask := 128 } : State).depth.toNat - 1) ∧
      ∃ s : State, s.cMask = 65 ∧ s.cEnd = 0xfec0bebecafe00007fffffffffffffff ∧ s.cIdx = 0 ∧ s.depth = 1 :=
  ⟨by decide, witness_inv, by decide, by decide, ⟨by decide, by decide, rfl⟩, by decide,
    { State.reset with cMask := 65, cEnd := 0xfec0bebecafe00007fffffffffffffff, depth := 1 }, rfl, rfl, rfl, rfl⟩

/-- A stream of two children read to its end, other commands and a failing `NEXT` between. -/
theorem witness_StreamAgreesWithTheSequence :
    1 ≤ 120 ∧ 120 ≤ 128 ∧ parent119.sMask.toNat ≤ 120 ∧
      keepsSequence [issue 0x00000A02, issue 0x00000006, issue 0x00000006]
        (transact (issue (encode (.split 120))) parent119) = true ∧
      nextsDone [issue 0x00000A02, issue 0x00000006, issue 0x00000006]
        (transact (issue (encode (.split 120))) parent119) = splitCount (subnetOf parent119) 120 - 1 := by decide

theorem witness_NextNeverWraps : child1.Inv ∧ isLast child1 = false := ⟨witness_inv, by decide⟩

theorem witness_SequenceIsIndependentOfTheSubnet :
    exec .next State.reset = .next { State.reset with err := 5 } ∧
      exec (.subnet 129) child1 = .next { child1 with err := 2 } ∧ exec .subnetp State.reset = .next State.reset :=
  ⟨rfl, rfl, rfl⟩

theorem witness_OnlySplitAndNextTouchTheSequence :
    startsSequence (issue 0x00004002) child1 = false ∧ advances (issue 0x00004002) child1 = false ∧
      startsSequence (issue 0x00000005) child1 = false ∧ advances (issue 0x00000006) State.reset = false ∧
      exec (.mask 129) child1 = .next { child1 with err := 2 } ∧
      exec (.subnet 129) child1 = .next { child1 with err := 2 } :=
  ⟨by decide, by decide, by decide, by decide, rfl, rfl⟩

/-- Each command, on operands where it answers. -/
theorem witness_EveryCommandEndsWithItsCode :
    after (·.err) (exec (.mask 128) child1) = some 0 ∧ after (·.err) (exec (.mask 129) child1) = some 2 ∧
      after (·.err) (exec (.subnet 128) child1) = some 0 ∧ after (·.err) (exec .subnetp child1) = some 0 ∧
      after (·.err) (exec .succ child1) = some 0 ∧ after (·.err) (exec (.split 128) child1) = some 0 ∧
      after (·.err) (exec .next child1) = some 0 ∧
      after (·.err) (serve (issue 0x00000007) child1) = some 4 := by decide

theorem witness_FailedCommandChangesOnlyErrAndCmd :
    after (fun u => decide (u.err ≠ 0)) (serve (issue 0x00000007) child1) = some true ∧
      after (fun u => decide (u.err ≠ 0)) (serve (issue 0x00003F05) child1) = some true := by decide

theorem witness_CommandsReadAndWriteOnlyTheirRow :
    sameReads .next child1 { child1 with sMask := 0, aAddr := 7 } ∧ after (·.err) (exec .next child1) = some 0 ∧
      after (·.err) (exec .next { child1 with sMask := 0, aAddr := 7 }) = some 0 ∧
      after (·.err) (exec (.split 118) child1) = some 3 ∧ decode 0x00000007 = .error .unknownOpcode :=
  ⟨⟨rfl, rfl, rfl, rfl⟩, by decide, by decide, by decide, by decide⟩

theorem witness_ErrIsOnlyTheLatestCode :
    after (fun u => decide (u.err ≠ 0)) (exec (.mask 129) child1) = some true := by decide

theorem witness_FirstErrorInOrderIsRaised :
    decode 0x00010005 = .error .reservedBits ∧ (0 = 0 ∧ 128 < 129) ∧ 1 ≤ child1.sMask.toNat := by decide

theorem witness_InfoCaseGivesMaskAndRange : (128#8).toNat ≤ 128 ∧ 128 < (129#8).toNat := by decide

/-- A split of four children that succeeds, and one that fails. -/
theorem witness_SplitAllReadsEveryChild :
    (∃ children, splitSubnet (subnetOf parent119) (121#8).toNat = .ok children ∧ children.length ≤ 4) ∧
      splitSubnet (subnetOf parent119) (118#8).toNat = .error .maskNotDeepenable :=
  ⟨⟨_, rfl, by decide⟩, rfl⟩

end Sys2Proof.Tests
end

section
/-! PROOFS. An address value as its bytes, bit positions and number (R2, R3, R4, R35). -/

namespace Sys2Proof.Machine

/-- R2 in bits: in-byte bit `k` of byte `i` is the vector bit of weight `2^(120 - 8*i + k)`. -/
theorem getLsbD_byte (a : Addr) (i : Nat) {k : Nat} (hk : k < 8) :
    (byte a i).getLsbD k = a.getLsbD (120 - 8 * i + k) := by
  simp [byte, hk]

/-- R3: bit position `q` lies in byte `q / 8` at in-byte bit `7 - q % 8`. -/
theorem getMsbD_eq_getLsbD_byte (a : Addr) {q : Nat} (hq : q < 128) :
    a.getMsbD q = (byte a (q / 8)).getLsbD (7 - q % 8) := by
  have hj : q % 8 < 8 := Nat.mod_lt q (by decide)
  calc a.getMsbD q
      = a.getMsbD (8 * (q / 8) + q % 8) := by rw [Nat.div_add_mod]
    _ = (byte a (q / 8)).getMsbD (q % 8) := (getMsbD_byte a (by omega) hj).symm
    _ = (byte a (q / 8)).getLsbD (7 - q % 8) := by simp [BitVec.getMsbD, hj]

/-- Appending a byte is one step of Horner's rule in base 256. -/
theorem toNat_append_byte {w : Nat} (x : BitVec w) (b : Byte) : (x ++ b).toNat = 256 * x.toNat + b.toNat := by
  rw [BitVec.toNat_append, ← Nat.shiftLeft_add_eq_or_of_lt b.isLt, Nat.shiftLeft_eq, Nat.mul_comm]

/-- Packed bytes are the digits of their number in base 256, the first byte the most significant. -/
theorem toNat_packBytes (n : Nat) (f : Nat → Byte) :
    (packBytes n f).toNat = ((List.range n).map fun i => (f i).toNat * 256 ^ (n - 1 - i)).sum := by
  induction n with
  | zero => rfl
  | succ n ih =>
    have shift : ∀ i ∈ List.range n,
        (f i).toNat * 256 ^ (n + 1 - 1 - i) = 256 * ((f i).toNat * 256 ^ (n - 1 - i)) := by
      intro i hi
      rw [List.mem_range] at hi
      rw [show n + 1 - 1 - i = n - 1 - i + 1 by omega, Nat.pow_succ]
      ring
    calc (packBytes (n + 1) f).toNat
        = 256 * (packBytes n f).toNat + (f n).toNat := toNat_append_byte _ _
      _ = _ := by
        rw [ih, List.sum_range_succ, List.map_congr_left shift, List.sum_map_mul_left]
        simp

/-- R4: `val(a)` is the sum of the bytes by their weights. -/
theorem toNat_eq_sum_bytes (a : Addr) :
    a.toNat = ((List.range 16).map fun i => (byte a i).toNat * 256 ^ (15 - i)).sum :=
  calc a.toNat = (packBytes 16 (byte a)).toNat := congrArg BitVec.toNat (ofBytes_byte a).symm
    _ = _ := toNat_packBytes 16 (byte a)

/-- Settles O24: the slices bit by bit, the sum by Horner's rule over the packed bytes. -/
theorem addressIsItsBytesInNetworkOrder : Obligations.AddressIsItsBytesInNetworkOrder := by
  refine ⟨fun a i k _ hk => getLsbD_byte a i hk, fun a q hq => ⟨getMsbD_eq_getLsbD_byte a hq, ?_⟩,
    toNat_eq_sum_bytes, fun _ _ => BitVec.le_def, fun a => Nat.le_sub_one_of_lt a.isLt⟩
  simp [BitVec.getMsbD, hq]

end Sys2Proof.Machine
end

section
/-! PROOFS. The expanded form: where its characters stand, and that it determines the address value (R7). -/

namespace Sys2Proof.Machine

section Intercalate
/-! Lists of one length `m`, joined by one separator: each takes `m + 1` places, its separator included. -/

variable {α : Type} (c : α) {m : Nat}

theorem length_intercalate_add_one : ∀ {ls : List (List α)}, ls ≠ [] → (∀ l ∈ ls, l.length = m) →
    ([c].intercalate ls).length + 1 = (m + 1) * ls.length
  | [l], _, h => by simp [h]
  | l :: l' :: ls, _, h => by
    have ih := length_intercalate_add_one (List.cons_ne_nil l' ls) fun x hx => h x (List.mem_cons_of_mem l hx)
    rw [List.length_cons, Nat.mul_succ, ← ih]
    simp [List.intercalate_cons_cons, h]
    omega

/-- The places after the first list and its separator are those of the remaining lists. -/
theorem getElem?_intercalate_cons {l l' : List α} {ls : List (List α)} (hl : l.length = m) (g k : Nat) :
    ([c].intercalate (l :: l' :: ls))[(m + 1) * (g + 1) + k]? = ([c].intercalate (l' :: ls))[(m + 1) * g + k]? := by
  have skip : (m + 1) * (g + 1) + k = (l ++ [c]).length + ((m + 1) * g + k) := by simp [hl, Nat.mul_succ]; omega
  rw [List.intercalate_cons_cons, skip, List.getElem?_append_right (Nat.le_add_right _ _),
    Nat.add_sub_cancel_left]

theorem getElem?_intercalate_item {k : Nat} (hk : k < m) : ∀ {ls : List (List α)} {g : Nat} (hg : g < ls.length),
    (∀ l ∈ ls, l.length = m) → ([c].intercalate ls)[(m + 1) * g + k]? = ls[g][k]?
  | [l], 0, _, _ => by simp
  | l :: l' :: ls, 0, _, h => by
    simp [List.intercalate_cons_cons, List.getElem?_append_left, h, hk]
  | l :: l' :: ls, g + 1, hg, h => by
    have ih := getElem?_intercalate_item hk (Nat.lt_of_succ_lt_succ hg) fun x hx => h x (List.mem_cons_of_mem l hx)
    exact (getElem?_intercalate_cons c (h l List.mem_cons_self) g k).trans ih

theorem getElem?_intercalate_separator : ∀ {ls : List (List α)} {g : Nat}, g + 1 < ls.length →
    (∀ l ∈ ls, l.length = m) → ([c].intercalate ls)[(m + 1) * g + m]? = some c
  | l :: l' :: ls, 0, _, h => by
    simp [List.intercalate_cons_cons, h]
  | l :: l' :: ls, g + 1, hg, h => by
    have ih := getElem?_intercalate_separator (Nat.lt_of_succ_lt_succ hg) fun x hx => h x (List.mem_cons_of_mem l hx)
    exact (getElem?_intercalate_cons c (h l List.mem_cons_self) g m).trans ih

end Intercalate

/-- The 16-bit number group `g` of the expanded form writes (R7). -/
def groupValue (a : Addr) (g : Nat) : Nat := (byte a (2 * g)).toNat * 256 + (byte a (2 * g + 1)).toNat

theorem groupValue_lt (a : Addr) (g : Nat) : groupValue a g < 65536 := by
  have h0 := (byte a (2 * g)).isLt
  have h1 := (byte a (2 * g + 1)).isLt
  unfold groupValue
  omega

/-- A group's number determines its two bytes. -/
theorem bytes_eq_of_groupValue_eq {a b : Addr} {g : Nat} (h : groupValue a g = groupValue b g) :
    byte a (2 * g) = byte b (2 * g) ∧ byte a (2 * g + 1) = byte b (2 * g + 1) := by
  have ha := (byte a (2 * g + 1)).isLt
  have hb := (byte b (2 * g + 1)).isLt
  unfold groupValue at h
  constructor <;> apply BitVec.eq_of_toNat_eq <;> omega

theorem hexDigit_mem_digits : ∀ d, d < 16 →
    ['0', '1', '2', '3', '4', '5', '6', '7', '8', '9', 'a', 'b', 'c', 'd', 'e', 'f'][d]? = some (hexDigit d) := by
  decide

/-- Different digits are written by different characters. -/
theorem hexDigit_injective : ∀ d, d < 16 → ∀ e, e < 16 → hexDigit d = hexDigit e → d = e := by decide

theorem length_hexGroup (a : Addr) (g : Nat) : (hexGroup a g).length = 4 := rfl

/-- Character `k` of a group is the digit of weight `16^(3 - k)`. -/
theorem getElem?_hexGroup (a : Addr) (g : Nat) {k : Nat} (hk : k < 4) :
    (hexGroup a g)[k]? = some (hexDigit (groupValue a g / 16 ^ (3 - k) % 16)) := by
  have hn := groupValue_lt a g
  match k, hk with
  | 0, _ =>
    rw [Nat.mod_eq_of_lt (by omega)]
    rfl
  | 1, _ => rfl
  | 2, _ => rfl
  | 3, _ =>
    rw [Nat.sub_self, Nat.pow_zero, Nat.div_one]
    rfl

/-- A number of four hexadecimal digits is determined by them. -/
theorem eq_of_hex_digits_eq {n n' : Nat} (hn : n < 65536) (hn' : n' < 65536)
    (h : ∀ k, k < 4 → n / 16 ^ (3 - k) % 16 = n' / 16 ^ (3 - k) % 16) : n = n' := by
  have h0 := h 0 (by decide)
  have h1 := h 1 (by decide)
  have h2 := h 2 (by decide)
  have h3 := h 3 (by decide)
  norm_num at h0 h1 h2 h3
  omega

theorem groupValue_eq_of_hexGroup_eq {a b : Addr} {g : Nat} (h : hexGroup a g = hexGroup b g) :
    groupValue a g = groupValue b g := by
  apply eq_of_hex_digits_eq (groupValue_lt a g) (groupValue_lt b g)
  intro k hk
  have hchar := congrArg (·[k]?) h
  simp only [getElem?_hexGroup _ g hk, Option.some.injEq] at hchar
  exact hexDigit_injective _ (Nat.mod_lt _ (by decide)) _ (Nat.mod_lt _ (by decide)) hchar

theorem length_of_mem_hexGroups (a : Addr) : ∀ l ∈ (List.range 8).map (hexGroup a), l.length = 4 := by
  intro l hl
  obtain ⟨g, -, rfl⟩ := List.mem_map.mp hl
  exact length_hexGroup a g

theorem length_xfmt (a : Addr) : (xfmt a).length = 39 :=
  Nat.succ.inj (length_intercalate_add_one ':' (List.cons_ne_nil _ _) (length_of_mem_hexGroups a))

theorem getElem?_xfmt_colon (a : Addr) {g : Nat} (hg : g < 7) : (xfmt a)[5 * g + 4]? = some ':' :=
  getElem?_intercalate_separator ':' (by simpa using Nat.succ_lt_succ hg) (length_of_mem_hexGroups a)

theorem getElem?_xfmt_digit (a : Addr) {g k : Nat} (hg : g < 8) (hk : k < 4) :
    (xfmt a)[5 * g + k]? = (hexGroup a g)[k]? := by
  have h := getElem?_intercalate_item ':' hk (by simpa using hg) (length_of_mem_hexGroups a)
  simpa [xfmt] using h

/-- The groups are read back from the form. -/
theorem hexGroup_eq_of_xfmt_eq {a b : Addr} (h : xfmt a = xfmt b) {g : Nat} (hg : g < 8) :
    hexGroup a g = hexGroup b g := by
  apply List.ext_getElem?
  intro k
  by_cases hk : k < 4
  · rw [← getElem?_xfmt_digit a hg hk, ← getElem?_xfmt_digit b hg hk, h]
  · rw [List.getElem?_eq_none (by rw [length_hexGroup]; omega), List.getElem?_eq_none (by rw [length_hexGroup]; omega)]

theorem xfmt_injective {a b : Addr} (h : xfmt a = xfmt b) : a = b := by
  apply eq_of_byte_eq
  intro i hi
  have hgroup := hexGroup_eq_of_xfmt_eq h (g := i / 2) (by omega)
  obtain ⟨heven, hodd⟩ := bytes_eq_of_groupValue_eq (groupValue_eq_of_hexGroup_eq hgroup)
  rcases Nat.mod_two_eq_zero_or_one i with hi2 | hi2
  · rwa [show 2 * (i / 2) = i by omega] at heven
  · rwa [show 2 * (i / 2) + 1 = i by omega] at hodd

/-- Settles O25: the form's characters are read off by place, and they determine the groups, these the bytes. -/
theorem expandedFormIsInjective : Obligations.ExpandedFormIsInjective := by
  refine ⟨hexDigit_mem_digits,
    fun a => ⟨length_xfmt a, fun g hg => getElem?_xfmt_colon a hg, fun g k hg hk => ?_⟩, fun _ _ => xfmt_injective⟩
  rw [getElem?_xfmt_digit a hg hk, getElem?_hexGroup a g hk, groupValue]

end Sys2Proof.Machine
end

section
/-! PROOFS. The range of an address by bit positions (R3, R55), and what a valid Subnet says of its ends as numbers (R4,
R6). -/

namespace Sys2Proof.Machine

theorem getMsbD_rangeBegin (a : Addr) (m : Nat) {q : Nat} (hq : q < 128) :
    (rangeBegin a m).getMsbD q = (a.getMsbD q && decide (q < m)) := by
  have hi : q / 8 < 16 := by omega
  have hj : q % 8 < 8 := Nat.mod_lt q (by decide)
  rw [rangeBegin, getMsbD_ofBytes _ hq, BitVec.getMsbD_and, getMsbD_byte a hi hj, getMsbD_netMask m _ hj, Nat.div_add_mod]

theorem getMsbD_rangeEnd (a : Addr) (m : Nat) {q : Nat} (hq : q < 128) :
    (rangeEnd a m).getMsbD q = (a.getMsbD q || decide (m ≤ q)) := by
  have hi : q / 8 < 16 := by omega
  have hj : q % 8 < 8 := Nat.mod_lt q (by decide)
  rw [rangeEnd, getMsbD_ofBytes _ hq, BitVec.getMsbD_or, getMsbD_byte a hi hj, getMsbD_hostMask m _ hj, Nat.div_add_mod]

/-- R28 (S2), (C2): what `subnetFromAddress` builds is a valid Subnet. -/
theorem rangeOf_valid (a : Addr) {m : Nat} (hm : m ≤ 128) : (rangeOf a m).Valid where
  mask_le := hm
  network q (hq : q < m) := by
    have hq128 : q < 128 := by omega
    simp [rangeOf, getMsbD_rangeBegin a m hq128, getMsbD_rangeEnd a m hq128, hq]
  host q (hq : m ≤ q) hq128 := by
    simp [rangeOf, getMsbD_rangeBegin a m hq128, getMsbD_rangeEnd a m hq128, hq]

/-- The bit of weight `2^k` stands at position `127 - k` (R3). -/
theorem testBit_toNat_eq_getMsbD (a : Addr) {k : Nat} (hk : k < 128) : a.toNat.testBit k = a.getMsbD (127 - k) := by
  rw [BitVec.testBit_toNat, BitVec.getLsbD_eq_getMsbD]
  simp [hk]

/-- Two addresses that agree before position `m` have the same number before it. -/
theorem div_eq_of_getMsbD_eq {a b : Addr} {m : Nat} (hm : m ≤ 128) (h : ∀ q, q < m → a.getMsbD q = b.getMsbD q) :
    a.toNat / 2 ^ (128 - m) = b.toNat / 2 ^ (128 - m) := by
  apply Nat.eq_of_testBit_eq
  intro k
  simp only [Nat.testBit_div_two_pow]
  by_cases hk : k < m
  · rw [testBit_toNat_eq_getMsbD a (by omega), testBit_toNat_eq_getMsbD b (by omega)]
    exact h _ (by omega)
  · rw [BitVec.testBit_toNat, BitVec.testBit_toNat, BitVec.getLsbD_of_ge a _ (by omega),
      BitVec.getLsbD_of_ge b _ (by omega)]

/-- Cutting an address to its range keeps the number before the mask. -/
theorem rangeBegin_div (a : Addr) {m : Nat} (hm : m ≤ 128) :
    (rangeBegin a m).toNat / 2 ^ (128 - m) = a.toNat / 2 ^ (128 - m) :=
  div_eq_of_getMsbD_eq hm fun q hq => by simp [getMsbD_rangeBegin a m (show q < 128 by omega), hq]

namespace Subnet.Valid

variable {S : Subnet} (hS : S.Valid)
include hS

theorem div_eq : S.first.toNat / 2 ^ (128 - S.mask) = S.last.toNat / 2 ^ (128 - S.mask) :=
  div_eq_of_getMsbD_eq hS.mask_le hS.network

theorem first_mod : S.first.toNat % 2 ^ (128 - S.mask) = 0 := by
  apply Nat.zero_of_testBit_eq_false
  intro k
  rw [Nat.testBit_mod_two_pow]
  by_cases hk : k < 128 - S.mask
  · rw [testBit_toNat_eq_getMsbD S.first (by omega), (hS.host _ (by omega) (by omega)).1, Bool.and_false]
  · simp [hk]

theorem last_mod : S.last.toNat % 2 ^ (128 - S.mask) = 2 ^ (128 - S.mask) - 1 := by
  apply Nat.eq_of_testBit_eq
  intro k
  rw [Nat.testBit_mod_two_pow, Nat.testBit_two_pow_sub_one]
  by_cases hk : k < 128 - S.mask
  · rw [testBit_toNat_eq_getMsbD S.last (by omega), (hS.host _ (by omega) (by omega)).2, Bool.and_true]
  · simp [hk]

/-- R54 (b): a Subnet ends at the last of its `2^(128 - mask)` addresses. -/
theorem last_add_one : S.last.toNat + 1 = 2 ^ (128 - S.mask) * (S.first.toNat / 2 ^ (128 - S.mask) + 1) := by
  have hsplit := Nat.div_add_mod S.last.toNat (2 ^ (128 - S.mask))
  have hpos : 0 < 2 ^ (128 - S.mask) := Nat.two_pow_pos _
  rw [hS.last_mod, ← hS.div_eq] at hsplit
  rw [Nat.mul_succ]
  omega

end Subnet.Valid

end Sys2Proof.Machine
end

section
/-! PROOFS. The byte-wise carry adds one modulo `2^128` (R60, R61). -/

namespace Sys2Proof.Machine

/-- The number of an address value as a sum over its byte places. -/
theorem toNat_eq_finset_sum (a : Addr) :
    a.toNat = ∑ i ∈ Finset.range 16, (byte a i).toNat * 256 ^ (15 - i) := toNat_eq_sum_bytes a

/-- Writing byte `n` changes the number by that byte's part alone. -/
theorem toNat_setByte_add (r : Addr) {n : Nat} (hn : n < 16) (b : Byte) :
    (setByte r n b).toNat + (byte r n).toNat * 256 ^ (15 - n) = r.toNat + b.toNat * 256 ^ (15 - n) := by
  have hmem : n ∈ Finset.range 16 := Finset.mem_range.mpr hn
  have hrest : ∑ i ∈ (Finset.range 16).erase n, (byte (setByte r n b) i).toNat * 256 ^ (15 - i) =
      ∑ i ∈ (Finset.range 16).erase n, (byte r i).toNat * 256 ^ (15 - i) := by
    apply Finset.sum_congr rfl
    intro i hi
    obtain ⟨hne, hi16⟩ := Finset.mem_erase.mp hi
    rw [byte_setByte r hn b (Finset.mem_range.mp hi16), if_neg hne]
  rw [toNat_eq_finset_sum (setByte r n b), toNat_eq_finset_sum r, ← Finset.add_sum_erase _ _ hmem,
    ← Finset.add_sum_erase (Finset.range 16) (fun i => (byte r i).toNat * 256 ^ (15 - i)) hmem, hrest,
    byte_setByte r hn b hn, if_pos rfl]
  ring

/-- The carry entering at byte `n - 1` adds that byte's weight; past byte 0 it adds nothing modulo `2^128`. The bytes it
has still to meet are those of `a`. -/
theorem carryChain_modEq (a : Addr) : ∀ {n : Nat} {r : Addr}, n ≤ 16 → (∀ i, i < n → byte r i = byte a i) →
    (carryChain a n r).toNat ≡ r.toNat + 256 ^ (16 - n) [MOD 2 ^ 128]
  | 0, r, _, _ => by
    rw [carryChain, show (256 : Nat) ^ (16 - 0) = 2 ^ 128 by norm_num]
    exact Nat.add_modEq_right.symm
  | n + 1, r, hn, hr => by
    have hset := toNat_setByte_add r (show n < 16 by omega) (byte a n + 1)
    rw [hr n n.lt_succ_self] at hset
    rw [carryChain_succ, show 16 - (n + 1) = 15 - n by omega]
    split
    · next hwrap =>
      have hlow : ∀ i, i < n → byte (setByte r n (byte a n + 1)) i = byte a i := fun i hi => by
        rw [byte_setByte r (by omega) _ (by omega), if_neg (by omega), hr i (by omega)]
      have hff : (byte a n).toNat = 255 := by bv_omega
      have hpow : (256 : Nat) ^ (16 - n) = 256 * 256 ^ (15 - n) := by
        rw [show 16 - n = 15 - n + 1 by omega, Nat.pow_succ, Nat.mul_comm]
      have hcarry := carryChain_modEq a (by omega) hlow
      rw [hff, hwrap, show (0 : Byte).toNat = 0 from rfl] at hset
      rw [hwrap] at hcarry ⊢
      rwa [hpow, show (setByte r n 0).toNat + 256 * 256 ^ (15 - n) = r.toNat + 256 ^ (15 - n) by omega] at hcarry
    · next hstop =>
      have hinc : (byte a n + 1).toNat = (byte a n).toNat + 1 := by bv_omega
      rw [hinc, Nat.succ_mul] at hset
      rw [show (setByte r n (byte a n + 1)).toNat = r.toNat + 256 ^ (15 - n) by omega]

/-- R61: the successor is the number plus one modulo `2^128`. -/
theorem toNat_successor (a : Addr) : (successor a).toNat = (a.toNat + 1) % 2 ^ 128 := by
  have h : (successor a).toNat ≡ a.toNat + 1 [MOD 2 ^ 128] := carryChain_modEq a le_rfl fun _ _ => rfl
  rwa [Nat.ModEq, Nat.mod_eq_of_lt (successor a).isLt] at h

end Sys2Proof.Machine
end

section
/-! PROOFS. Every command as a check and, where the check passes, its writes; R26's table and R29 from it. -/

namespace Sys2Proof.Machine

/-- The error a command raises in a state, if any (R94). -/
def commandError : Instr → State → Option ErrKind
  | .mask p, _ => if p ≤ 128 then none else some .invalidMask
  | .subnet m, _ => if m ≤ 128 then none else some .invalidMask
  | .subnetp, s => if s.aPfx.toNat ≤ 128 then none else some .invalidMask
  | .succ, _ => none
  | .split t, s => splitError s.sMask.toNat t
  | .next, s => if isLast s then some .endOfSequence else none

/-- The state after a command's writes, before its code (R26). -/
def commandWrites : Instr → State → State
  | .mask p, s => setRAddr (maskAddress p) s
  | .subnet m, s => setSubnet (rangeOf s.aAddr m) s
  | .subnetp, s => setSubnet (rangeOf s.aAddr s.aPfx.toNat) s
  | .succ, s => setRAddr (successor s.aAddr) s
  | .split t, s => setSequence (rangeOf s.sBegin t) (t - s.sMask.toNat) s
  | .next, s =>
    setNextChild (rangeBegin (successor s.cEnd) s.cMask.toNat) (rangeEnd (successor s.cEnd) s.cMask.toNat) s

/-- A command fails with its error and writes nothing, or does its writes and ends normally (R84). -/
theorem exec_eq (i : Instr) (s : State) :
    exec i s =
      match commandError i s with
      | some e => raise e s
      | none => ok (commandWrites i s) := by
  cases i with
  | mask p =>
    rw [exec_mask, commandError]
    split <;> rfl
  | subnet m =>
    rw [exec_subnet, buildSubnet_eq, commandError]
    split <;> rfl
  | subnetp =>
    rw [exec_subnetp, buildSubnet_eq, commandError]
    split <;> rfl
  | succ => rfl
  | split t => rfl
  | next =>
    rw [exec_next, commandError]
    split <;> rfl

theorem exec_of_error {i : Instr} {s : State} {e : ErrKind} (h : commandError i s = some e) : exec i s = raise e s := by
  rw [exec_eq, h]

theorem exec_of_no_error {i : Instr} {s : State} (h : commandError i s = none) : exec i s = ok (commandWrites i s) := by
  rw [exec_eq, h]

/-- The two ways a command can end. -/
theorem exec_next_cases {i : Instr} {s u : State} (h : exec i s = .next u) :
    (∃ e, commandError i s = some e ∧ u = { s with err := errCode e }) ∨
      (commandError i s = none ∧ u = { commandWrites i s with err := 0 }) := by
  cases hc : commandError i s with
  | some e => exact .inl ⟨e, rfl, raise_next.mp (exec_of_error hc ▸ h)⟩
  | none => exact .inr ⟨rfl, ok_next.mp (exec_of_no_error hc ▸ h)⟩

/-- R81: no command raises `InvalidAddress`. -/
theorem commandError_ne_invalidAddress (i : Instr) (s : State) : commandError i s ≠ some .invalidAddress := by
  cases i with
  | split t =>
    rw [commandError, splitError_eq]
    split_ifs <;> simp
  | succ => simp [commandError]
  | mask p | subnet m | subnetp | next =>
    rw [commandError]
    split_ifs <;> simp

theorem onlyWrites_commandWrites (i : Instr) (s : State) :
    onlyWrites i s { commandWrites i s with err := 0 } = { commandWrites i s with err := 0 } := by
  cases i <;> rfl

/-- No command writes `A_ADDR`, `A_PFX` or `CMD`. -/
theorem commandWrites_operands (i : Instr) (s : State) :
    (commandWrites i s).aAddr = s.aAddr ∧ (commandWrites i s).aPfx = s.aPfx ∧ (commandWrites i s).cmd = s.cmd := by
  cases i <;> exact ⟨rfl, rfl, rfl⟩

theorem isLast_congr {s t : State} (hidx : s.cIdx = t.cIdx) (hdepth : s.depth = t.depth) : isLast s = isLast t := by
  rw [isLast, isLast, hidx, hdepth]

/-- A command's check depends on nothing but its "reads" column. -/
theorem commandError_congr {i : Instr} {s t : State} (h : sameReads i s t) : commandError i s = commandError i t := by
  cases i with
  | mask p | subnet m | succ => rfl
  | subnetp =>
    obtain ⟨-, hpfx⟩ := h
    rw [commandError, commandError, hpfx]
  | split t =>
    obtain ⟨-, hmask⟩ := h
    rw [commandError, commandError, hmask]
  | next =>
    obtain ⟨-, -, hidx, hdepth⟩ := h
    rw [commandError, commandError, isLast_congr hidx hdepth]

/-- What a command writes depends on nothing but its "reads" column. -/
theorem commandWrites_congr {i : Instr} {s t : State} (h : sameReads i s t) :
    sameWrites i (commandWrites i s) (commandWrites i t) := by
  cases i with
  | mask p => rfl
  | subnet m | succ =>
    have haddr : s.aAddr = t.aAddr := h
    simp [sameWrites, commandWrites, haddr]
  | subnetp =>
    obtain ⟨haddr, hpfx⟩ := h
    simp [sameWrites, commandWrites, haddr, hpfx]
  | split t =>
    obtain ⟨hbegin, hmask⟩ := h
    simp [sameWrites, commandWrites, hbegin, hmask]
  | next =>
    obtain ⟨hend, hmask, hidx, -⟩ := h
    simp [sameWrites, commandWrites, hend, hmask, hidx]

/-- `ERR` is in no "writes on success" column. -/
theorem sameWrites_with_err {i : Instr} {s t : State} (h : sameWrites i s t) (c : BitVec 4) :
    sameWrites i { s with err := c } { t with err := c } := by
  cases i <;> exact h

/-- Settles O53: each command is its check and its writes, and both depend only on what the command reads. -/
theorem commandsReadAndWriteOnlyTheirRow : Obligations.CommandsReadAndWriteOnlyTheirRow := by
  refine ⟨fun i s u h => ?_, fun s w e hw => execWord_error hw s, fun i s s' u u' hreads h h' => ?_⟩
  · obtain ⟨e, he, rfl⟩ | ⟨hn, rfl⟩ := exec_next_cases h
    · refine ⟨fun h0 => absurd h0 (errCode_ne_zero e), fun _ => rfl, rfl, rfl, rfl, ?_⟩
      rintro rfl
      exact absurd he (by simp [commandError])
    · obtain ⟨haddr, hpfx, hcmd⟩ := commandWrites_operands i s
      exact ⟨fun _ => (onlyWrites_commandWrites i s).symm, fun h0 => absurd rfl h0, haddr, hpfx, hcmd, fun _ => rfl⟩
  · have hsame := commandError_congr hreads
    obtain ⟨e, he, rfl⟩ | ⟨hn, rfl⟩ := exec_next_cases h
    · obtain rfl := raise_next.mp (exec_of_error (hsame ▸ he) ▸ h')
      exact ⟨rfl, fun h0 => absurd h0 (errCode_ne_zero e)⟩
    · obtain rfl := ok_next.mp (exec_of_no_error (hsame ▸ hn) ▸ h')
      exact ⟨rfl, fun _ => sameWrites_with_err (commandWrites_congr hreads) 0⟩

/-- Settles O49: `NEXT`'s check and its writes name no register of `S`; the writes of `SUBNET` and `SUBNETP` are `S`
alone. -/
theorem sequenceIsIndependentOfTheSubnet : Obligations.SequenceIsIndependentOfTheSubnet := by
  refine ⟨fun s u b e m h => ?_, fun s u i hi h => ?_⟩
  · obtain ⟨k, hk, rfl⟩ | ⟨hn, rfl⟩ := exec_next_cases h
    · exact exec_of_error hk
    · exact exec_of_no_error hn
  · obtain ⟨k, -, rfl⟩ | ⟨-, rfl⟩ := exec_next_cases h
    · exact ⟨rfl, rfl, rfl⟩
    · obtain ⟨m, rfl⟩ | rfl := hi <;> exact ⟨rfl, rfl, rfl⟩

end Sys2Proof.Machine
end

section
/-! PROOFS. The state invariants of R28: what each update needs to keep them, then every command, event and step. -/

namespace Sys2Proof.Machine

/-- The invariants speak of `S`, `C`, `C_IDX`, `DEPTH` and `ERR` alone. -/
theorem State.Inv.congr {s t : State} (h : s.Inv) (hS : subnetOf t = subnetOf s) (hC : childOf t = childOf s)
    (hidx : t.cIdx = s.cIdx) (hdepth : t.depth = s.depth) (herr : t.err = s.err) : t.Inv := by
  have hmask : t.cMask.toNat = s.cMask.toNat := congrArg Subnet.mask hC
  have hbegin : t.cBegin = s.cBegin := congrArg Subnet.first hC
  exact
    { subnet := hS ▸ h.subnet
      cMask_pos := hmask ▸ h.cMask_pos
      depth_le := hmask ▸ hdepth ▸ h.depth_le
      child := hC ▸ h.child
      cIdx_le := hidx ▸ hdepth ▸ h.cIdx_le
      index := by rw [indexBits, hmask, hbegin, hdepth, hidx]; exact h.index
      err_code := herr ▸ h.err_code }

theorem State.Inv.depth_le_128 {s : State} (h : s.Inv) : s.depth.toNat ≤ 128 :=
  h.depth_le.trans h.child.mask_le

/-- (E1): every code is allowed but that of the host's own `InvalidAddress`. -/
theorem errCode_allowed {e : ErrKind} (he : e ≠ .invalidAddress) :
    errCode e = 0 ∨ errCode e = 2 ∨ errCode e = 3 ∨ errCode e = 4 ∨ errCode e = 5 := by
  cases e with
  | invalidAddress => exact absurd rfl he
  | invalidMask | maskNotDeepenable | illegalCommand | endOfSequence => decide

theorem setErr_inv {s : State} (h : s.Inv) {c : BitVec 4} (hc : c = 0 ∨ c = 2 ∨ c = 3 ∨ c = 4 ∨ c = 5) :
    (setErr c s).Inv :=
  { h with err_code := hc }

theorem toNat_ofNat_mask {m : Nat} (hm : m ≤ 128) : (BitVec.ofNat 8 m).toNat = m :=
  Nat.mod_eq_of_lt (by omega)

/-- (S1), (S2) are kept by storing a valid Subnet. -/
theorem setSubnet_inv {s : State} (h : s.Inv) {S : Subnet} (hS : S.Valid) : (setSubnet S s).Inv :=
  { h with
    subnet := by
      rw [subnetOf, setSubnet_sMask, toNat_ofNat_mask hS.mask_le]
      exact hS }

/-- The parent's host bits are 0, so its first child at target `t` has index bits 0 (R28 (C4)). -/
theorem firstChild_indexBits {S : Subnet} (hS : S.Valid) {t : Nat} (hmt : S.mask ≤ t) (ht : t ≤ 128) :
    (rangeBegin S.first t).toNat / 2 ^ (128 - t) % 2 ^ (t - S.mask) = 0 := by
  have hpow : 2 ^ (128 - t) * 2 ^ (t - S.mask) = 2 ^ (128 - S.mask) := by
    rw [← Nat.pow_add]
    congr 1
    omega
  rw [rangeBegin_div _ ht, ← Nat.mod_mul_right_div_self, hpow, hS.first_mod, Nat.zero_div]

/-- A `SPLIT` that passes its checks keeps the invariants. -/
theorem setSequence_inv {s : State} (h : s.Inv) {t : Nat} (ht : 1 ≤ t ∧ s.sMask.toNat ≤ t ∧ t ≤ 128) :
    (setSequence (rangeOf s.sBegin t) (t - s.sMask.toNat) s).Inv := by
  obtain ⟨hpos, hmt, hle⟩ := ht
  have hmask : (BitVec.ofNat 8 t).toNat = t := toNat_ofNat_mask hle
  have hdepth : (BitVec.ofNat 8 (t - s.sMask.toNat)).toNat = t - s.sMask.toNat := toNat_ofNat_mask (by omega)
  exact
    { h with
      cMask_pos := hmask.symm ▸ hpos
      depth_le := by simp only [setSequence_depth, setSequence_cMask, rangeOf, hmask, hdepth]; omega
      child := by
        rw [childOf, setSequence_cMask, rangeOf, hmask]
        exact rangeOf_valid _ hle
      cIdx_le := Nat.zero_le _
      index := by
        simp only [indexBits, setSequence_cBegin, setSequence_cMask, setSequence_depth, rangeOf, hmask, hdepth]
        exact firstChild_indexBits h.subnet hmt hle }

/-- The successor of a Subnet's end has, modulo `2^mask`, the next network number. -/
theorem Subnet.Valid.successor_last_div {C : Subnet} (hC : C.Valid) :
    (successor C.last).toNat / 2 ^ (128 - C.mask) = (C.first.toNat / 2 ^ (128 - C.mask) + 1) % 2 ^ C.mask := by
  have hpow : 2 ^ (128 - C.mask) * 2 ^ C.mask = 2 ^ 128 := by
    rw [← Nat.pow_add, Nat.sub_add_cancel hC.mask_le]
  rw [toNat_successor, ← hpow, Nat.mod_mul_right_div_self, hC.last_add_one,
    Nat.mul_div_cancel_left _ (Nat.two_pow_pos _)]

/-- A `NEXT` issued before the last child keeps the invariants. -/
theorem setNextChild_inv {s : State} (h : s.Inv) (hlast : isLast s = false) :
    (setNextChild (rangeBegin (successor s.cEnd) s.cMask.toNat) (rangeEnd (successor s.cEnd) s.cMask.toNat) s).Inv := by
  have hle : s.cMask.toNat ≤ 128 := h.child.mask_le
  have hnot : s.cIdx.toNat ≠ 2 ^ s.depth.toNat - 1 := fun heq => by simp [(isLast_iff s).mpr heq] at hlast
  have hidx := h.cIdx_le
  have hpow : 2 ^ s.depth.toNat ≤ 2 ^ 128 := Nat.pow_le_pow_right (by decide) h.depth_le_128
  have hcIdx : (s.cIdx + 1).toNat = s.cIdx.toNat + 1 := by
    rw [BitVec.toNat_add]
    exact Nat.mod_eq_of_lt (show s.cIdx.toNat + 1 < 2 ^ 128 by omega)
  have hnext : (successor s.cEnd).toNat / 2 ^ (128 - s.cMask.toNat) =
      (s.cBegin.toNat / 2 ^ (128 - s.cMask.toNat) + 1) % 2 ^ s.cMask.toNat := h.child.successor_last_div
  exact
    { h with
      child := rangeOf_valid _ hle
      cIdx_le := by rw [setNextChild_cIdx, setNextChild_depth, hcIdx]; omega
      index := by
        have hindex : s.cBegin.toNat / 2 ^ (128 - s.cMask.toNat) % 2 ^ s.depth.toNat = s.cIdx.toNat := h.index
        simp only [indexBits, setNextChild_cBegin, setNextChild_cMask, setNextChild_depth, setNextChild_cIdx]
        rw [rangeBegin_div _ hle, hnext, Nat.mod_mod_of_dvd _ (Nat.pow_dvd_pow 2 h.depth_le), Nat.add_mod, hindex, hcIdx,
          Nat.add_mod_mod, Nat.mod_eq_of_lt (by omega)] }

/-- What a command writes when its check passes keeps the invariants. -/
theorem commandWrites_inv {i : Instr} {s : State} (h : s.Inv) (hi : commandError i s = none) :
    (commandWrites i s).Inv := by
  cases i with
  | mask p | succ => exact h.congr rfl rfl rfl rfl rfl
  | subnet m | subnetp => exact setSubnet_inv h (rangeOf_valid _ (by simpa [commandError] using hi))
  | split t => exact setSequence_inv h (splitError_eq_none.mp hi)
  | next => exact setNextChild_inv h (by simpa [commandError] using hi)

theorem exec_inv {i : Instr} {s t : State} (h : s.Inv) (ht : exec i s = .next t) : t.Inv := by
  obtain ⟨e, he, rfl⟩ | ⟨hn, rfl⟩ := exec_next_cases ht
  · exact setErr_inv h (errCode_allowed fun heq => commandError_ne_invalidAddress i s (heq ▸ he))
  · exact setErr_inv (commandWrites_inv h hn) (.inl rfl)

theorem execWord_inv {w : CmdWord} {s t : State} (h : s.Inv) (ht : execWord w s = .next t) : t.Inv := by
  cases hw : decode w with
  | ok i => exact exec_inv h (execWord_ok hw s ▸ ht)
  | error e =>
    obtain rfl := raise_next.mp (execWord_error hw s ▸ ht)
    exact setErr_inv h (errCode_allowed (by decide))

/-- Settles O19: at reset both Subnets are the single address 0, and `C_IDX` and `DEPTH` are 0. -/
theorem invariantsHoldAtReset : Obligations.InvariantsHoldAtReset where
  subnet := rangeOf_valid 0 (m := 128) le_rfl
  cMask_pos := by decide
  depth_le := by decide
  child := rangeOf_valid 0 (m := 128) le_rfl
  cIdx_le := by decide
  index := by decide
  err_code := .inl rfl

theorem serve_regWrite (n : RegNum) (v : BitVec (portWidth n)) (s : State) :
    serve (.regWrite n v) s = writeReg (regOf n) v (setReply none s) := rfl

/-- Every event keeps the invariants. -/
theorem serve_inv {e : Event} {s t : State} (h : s.Inv) (ht : serve e s = .next t) : t.Inv := by
  cases e with
  | regRead n =>
    cases ht
    exact h.congr rfl rfl rfl rfl rfl
  | regWrite n v =>
    rw [serve_regWrite] at ht
    have hs : (setReply none s).Inv := h.congr rfl rfl rfl rfl rfl
    obtain ⟨w, -, hw⟩ | ⟨a, -, hw⟩ | ⟨p, -, hw⟩ | hw := writeReg_cases (regOf n) v (setReply none s)
    · have hcmd : (setCmd w (setReply none s)).Inv := hs.congr rfl rfl rfl rfl rfl
      exact execWord_inv hcmd (hw ▸ ht)
    all_goals
      rw [hw] at ht
      cases ht
      exact hs.congr rfl rfl rfl rfl rfl
  | reset =>
    cases ht
    exact invariantsHoldAtReset.congr rfl rfl rfl rfl rfl

/-- Settles O20: a step is idle or serves one event. -/
theorem stepKeepsTheInvariants : Obligations.StepKeepsTheInvariants := by
  intro s t h ht
  cases hreq : s.requests with
  | nil =>
    rw [step_idle hreq] at ht
    cases ht
    exact h
  | cons e es =>
    rw [step_serves hreq] at ht
    have hes : (setRequests es s).Inv := h.congr rfl rfl rfl rfl rfl
    exact serve_inv hes ht

theorem transact_inv (e : Event) {s : State} (h : s.Inv) : (transact e s).Inv := by
  unfold transact
  split
  · next t ht => exact serve_inv h ht
  · exact h
  · exact h

theorem serveAll_inv : ∀ (es : List Event) {s : State}, s.Inv → (serveAll es s).Inv
  | [], _, h => h
  | e :: es, _, h => serveAll_inv es (transact_inv e h)

/-- Settles O21: the invariants hold at reset and every event keeps them; the values at reset are computed. -/
theorem invariantsHoldFromResetOn : Obligations.InvariantsHoldFromResetOn :=
  ⟨fun es => serveAll_inv es invariantsHoldAtReset, rfl, rfl, rfl, rfl⟩

end Sys2Proof.Machine
end

section
/-! PROOFS. The computed views: the fields of `STATUS` (R23) and the exact count (R21). -/

namespace Sys2Proof.Machine

open BitVec in
/-- Settles O22: `STATUS` is its fields appended, so a slice goes past the fields below it and ends at the next; `LAST` is
the bit above `ERR`. -/
theorem statusFieldsReadTheState : Obligations.StatusFieldsReadTheState := by
  intro s
  unfold status
  refine ⟨?_, ?_, ?_, ?_, ?_⟩
  · rw [extractLsb'_append_eq_of_add_le (by decide), extractLsb'_eq_self]
  · simp (disch := decide) only [extractLsb'_append_eq_of_le, extractLsb'_append_eq_of_add_le]
    rfl
  · simp (disch := decide) only [extractLsb'_append_eq_of_le, extractLsb'_append_eq_of_add_le]
    exact extractLsb'_eq_self
  · simp (disch := decide) only [extractLsb'_append_eq_of_le]
    rfl
  · rw [← isLast_iff, getLsbD_append, getLsbD_append]
    simp

/-- `2^DEPTH` fits the 129 bits of `C_COUNT` at every depth up to 128 (R21). -/
theorem toNat_childCount {s : State} (h : s.depth.toNat ≤ 128) : (childCount s).toNat = 2 ^ s.depth.toNat := by
  have hfits : 2 ^ s.depth.toNat < 2 ^ 129 := Nat.pow_lt_pow_right (by decide) (by omega)
  rw [childCount, BitVec.toNat_shiftLeft, Nat.shiftLeft_eq]
  simpa using Nat.mod_eq_of_lt hfits

/-- Settles O23: the count fits its register, and a sequence is never deeper than its children's mask. -/
theorem childCountIsTwoToTheDepth : Obligations.ChildCountIsTwoToTheDepth :=
  ⟨fun _ => toNat_childCount, fun _ h => h.depth_le_128⟩

end Sys2Proof.Machine
end

section
/-! PROOFS. The register map by number, and what one access of the host port does (R30 to R37). -/

namespace Sys2Proof.Machine

/-- R30: the unimplemented numbers. -/
theorem regOf_eq_none_iff (n : RegNum) : regOf n = none ↔ 0x0D ≤ n.toNat := by
  unfold regOf
  split
  case h_14 =>
    simp only [imp_false, true_iff] at *
    omega
  all_goals simp [*]

/-- A number names the register it numbers and no other (R10). -/
theorem eq_number_of_regOf_eq {n : RegNum} {r : Reg} (h : regOf n = some r) : n = r.number := by
  apply BitVec.eq_of_toNat_eq
  unfold regOf at h
  split at h
  case h_14 => cases h
  all_goals
    cases h
    assumption

/-- R36: an unimplemented number reads 0. -/
theorem regRead_unimplemented {n : RegNum} (h : regOf n = none) (s : State) : regRead n s = 0 := by
  have readNone : ∀ r, r = none → readReg r s = 0 := by
    rintro _ rfl
    rfl
  exact readNone (regOf n) h

/-- R32, R36: `CMD`, `A_ADDR` and `A_PFX` are the only numbers a write takes effect at. -/
theorem regWrite_ignored {n : RegNum} (hcmd : n ≠ 0x00) (haddr : n ≠ 0x02) (hpfx : n ≠ 0x03)
    (v : BitVec (portWidth n)) (s : State) : regWrite n v s = .next s := by
  obtain ⟨-, hr, -⟩ | ⟨-, hr, -⟩ | ⟨-, hr, -⟩ | h := writeReg_cases (regOf n) v s
  · exact absurd (eq_number_of_regOf_eq hr) hcmd
  · exact absurd (eq_number_of_regOf_eq hr) haddr
  · exact absurd (eq_number_of_regOf_eq hr) hpfx
  · exact h

theorem step_regRead {s : State} {n : RegNum} {es : List Event} (h : s.requests = .regRead n :: es) :
    step s = .next { s with requests := es, reply := some ⟨n, regRead n s⟩ } := by
  have hval : regRead n (setRequests es s) = regRead n s := readReg_setRequests (regOf n) es s
  rw [step_serves h, serve_regRead, hval]
  rfl

theorem step_regWrite {s : State} {n : RegNum} {v : BitVec (portWidth n)} {es : List Event}
    (h : s.requests = .regWrite n v :: es) :
    step s = regWrite n v { s with requests := es, reply := none } := step_serves h

/-- R32: a write to `CMD` stores the word and is its execution. -/
theorem step_regWrite_cmd {s : State} {w : CmdWord} {es : List Event} (h : s.requests = .regWrite 0x00 w :: es) :
    step s = execWord w { s with cmd := w, requests := es, reply := none } := step_regWrite h

/-- Settles O8: the step executes the word, and the word's execution is the command it decodes to. -/
theorem stepRunsTheDecodedCommand : Obligations.StepRunsTheDecodedCommand := by
  intro s w i es hreq hw
  rw [step_regWrite_cmd hreq, execWord_ok hw]

/-- Settles O10: the value read does not depend on the host's side of the port, and each number reads its register. -/
theorem regReadReturnsTheRegister : Obligations.RegReadReturnsTheRegister :=
  fun _ => ⟨fun _ _ => step_regRead, rfl, rfl, rfl, rfl, rfl, rfl, rfl, rfl, rfl, rfl, rfl, rfl, rfl⟩

/-- Settles O11: the widths are the map's, number by number. -/
theorem accessMovesTheRegisterWidth : Obligations.AccessMovesTheRegisterWidth :=
  ⟨rfl, rfl, rfl, rfl, rfl, rfl, rfl, rfl, rfl, rfl, rfl, rfl, rfl, regOf_eq_none_iff⟩

/-- Settles O13: no other number is written, and an unimplemented one reads 0. -/
theorem readOnlyAndUnimplementedAreIgnored : Obligations.ReadOnlyAndUnimplementedAreIgnored := by
  refine fun s n es => ⟨fun v hcmd haddr hpfx hreq => ?_, fun hn hreq => ?_⟩
  · rw [step_regWrite hreq, regWrite_ignored hcmd haddr hpfx]
  · rw [step_regRead hreq, regRead_unimplemented ((regOf_eq_none_iff n).mpr hn)]

end Sys2Proof.Machine
end

section
/-! PROOFS. Commands issued one after another: a word's execution keeps `CMD` and the host's requests, and each `NEXT`
word advances one child (R32). -/

namespace Sys2Proof.Machine

/-- A command is no transaction: it leaves the host's requests as they are (R24). -/
theorem commandWrites_requests (i : Instr) (s : State) : (commandWrites i s).requests = s.requests := by
  cases i <;> rfl

theorem exec_keeps_cmd_requests {i : Instr} {s t : State} (h : exec i s = .next t) :
    t.cmd = s.cmd ∧ t.requests = s.requests := by
  obtain ⟨e, -, rfl⟩ | ⟨-, rfl⟩ := exec_next_cases h
  · exact ⟨rfl, rfl⟩
  · obtain ⟨-, -, hcmd⟩ := commandWrites_operands i s
    exact ⟨hcmd, commandWrites_requests i s⟩

theorem execWord_keeps_cmd_requests {w : CmdWord} {s t : State} (h : execWord w s = .next t) :
    t.cmd = s.cmd ∧ t.requests = s.requests := by
  cases hw : decode w with
  | ok i => exact exec_keeps_cmd_requests (execWord_ok hw s ▸ h)
  | error e =>
    obtain rfl := raise_next.mp (execWord_error hw s ▸ h)
    exact ⟨rfl, rfl⟩

theorem transact_of_serve {e : Event} {s t : State} (h : serve e s = .next t) : transact e s = t := by
  rw [transact, h]

/-- R73: a `NEXT` word issued before the last child advances the index by one, in the same sequence. -/
theorem transact_issue_next {s : State} (h : isLast s = false) :
    (transact (issue 0x00000006) s).cIdx = s.cIdx + 1 ∧ (transact (issue 0x00000006) s).depth = s.depth := by
  have hcheck : commandError .next (setCmd 0x00000006 (setReply none s)) = none :=
    if_neg (Bool.eq_false_iff.mp h)
  have hserve := serve_issue 0x00000006 s
  rw [execWord_ok (i := .next) (by decide), exec_of_no_error hcheck, ok_eq] at hserve
  rw [transact_of_serve hserve]
  exact ⟨rfl, rfl⟩

/-- A child with more still to come is not the last. -/
theorem isLast_eq_false_of_lt {s : State} (h : s.cIdx.toNat < 2 ^ s.depth.toNat - 1) : isLast s = false :=
  Bool.eq_false_iff.mpr fun hlast => h.ne ((isLast_iff s).mp hlast)

/-- R32: two `NEXT` words advance two children. The index after the first is at most its number plus one, wrapped or
not, so the second word too is issued before the last child. -/
theorem cIdx_serveAll_next_next {s : State} (h : s.cIdx.toNat + 2 ≤ 2 ^ s.depth.toNat - 1) :
    (serveAll [issue 0x00000006, issue 0x00000006] s).cIdx = s.cIdx + 2 := by
  obtain ⟨hidx, hdepth⟩ := transact_issue_next (isLast_eq_false_of_lt (s := s) (by omega))
  have hle : (s.cIdx + 1).toNat ≤ s.cIdx.toNat + 1 := Nat.mod_le _ _
  have hfirst : isLast (transact (issue 0x00000006) s) = false :=
    isLast_eq_false_of_lt (by rw [hidx, hdepth]; omega)
  obtain ⟨hidx', -⟩ := transact_issue_next hfirst
  calc
    _ = (transact (issue 0x00000006) s).cIdx + 1 := hidx'
    _ = s.cIdx + 1 + 1 := by rw [hidx]
    _ = s.cIdx + 2 := BitVec.add_assoc _ _ _

/-- Settles O12: an operand write is one field's update, a `CMD` write is the word's execution. -/
theorem regWriteStoresOrExecutes : Obligations.RegWriteStoresOrExecutes := by
  refine fun s => ⟨fun a es => step_regWrite, fun p es => step_regWrite, fun w es hreq => ?_,
    cIdx_serveAll_next_next⟩
  rw [step_regWrite_cmd hreq]
  exact ⟨rfl, fun t => execWord_keeps_cmd_requests⟩

end Sys2Proof.Machine
end

section
/-! PROOFS. The host's transactions are applied one after another (R33): serving an event neither sees nor changes the
requests still to come, so a run of the machine is the events' own fold. -/

namespace Sys2Proof.Machine

theorem sameReads_setRequests (i : Instr) (es : List Event) (s : State) : sameReads i s (setRequests es s) := by
  cases i with
  | mask p => trivial
  | subnet m | succ => rfl
  | subnetp | split t => exact ⟨rfl, rfl⟩
  | next => exact ⟨rfl, rfl, rfl, rfl⟩

theorem commandWrites_setRequests (i : Instr) (es : List Event) (s : State) :
    commandWrites i (setRequests es s) = setRequests es (commandWrites i s) := by
  cases i <;> rfl

theorem exec_setRequests {i : Instr} {s t : State} (es : List Event) (h : exec i s = .next t) :
    exec i (setRequests es s) = .next (setRequests es t) := by
  have hcheck := commandError_congr (sameReads_setRequests i es s)
  obtain ⟨e, he, rfl⟩ | ⟨hn, rfl⟩ := exec_next_cases h
  · exact exec_of_error (hcheck ▸ he)
  · rw [exec_of_no_error (hcheck ▸ hn), commandWrites_setRequests]
    rfl

theorem execWord_setRequests {w : CmdWord} {s t : State} (es : List Event) (h : execWord w s = .next t) :
    execWord w (setRequests es s) = .next (setRequests es t) := by
  cases hw : decode w with
  | ok i =>
    rw [execWord_ok hw] at h ⊢
    exact exec_setRequests es h
  | error e =>
    rw [execWord_error hw] at h ⊢
    obtain rfl := raise_next.mp h
    rfl

theorem writeReg_setRequests {r : Option Reg} {v : BitVec (widthOf r)} {s t : State} (es : List Event)
    (h : writeReg r v s = .next t) : writeReg r v (setRequests es s) = .next (setRequests es t) := by
  match r, v with
  | some .cmd, w => exact execWord_setRequests es h
  | some .aAddr, _ | some .aPfx, _ | some .status, _ | some .rAddr, _ | some .sBegin, _ | some .sEnd, _
  | some .sMask, _ | some .cBegin, _ | some .cEnd, _ | some .cMask, _ | some .cIdx, _ | some .cCount, _ | none, _ =>
    cases h
    rfl

/-- Serving an event neither sees nor changes the requests still to come. -/
theorem serve_setRequests {e : Event} {s t : State} (es : List Event) (h : serve e s = .next t) :
    serve e (setRequests es s) = .next (setRequests es t) := by
  cases e with
  | regRead n =>
    cases h
    have hval : regRead n (setRequests es s) = regRead n s := readReg_setRequests (regOf n) es s
    rw [serve_regRead, hval]
    rfl
  | regWrite n v => exact writeReg_setRequests es h
  | reset =>
    cases h
    rfl

theorem exec_completes (i : Instr) (s : State) : ∃ t, exec i s = .next t := by
  cases h : commandError i s with
  | some e => exact ⟨_, exec_of_error h⟩
  | none => exact ⟨_, exec_of_no_error h⟩

theorem execWord_completes (w : CmdWord) (s : State) : ∃ t, execWord w s = .next t := by
  cases h : decode w with
  | ok i => exact execWord_ok h s ▸ exec_completes i s
  | error e => exact ⟨_, execWord_error h s⟩

theorem serve_completes (e : Event) (s : State) : ∃ t, serve e s = .next t := by
  cases e with
  | regRead n => exact ⟨_, serve_regRead n s⟩
  | regWrite n v =>
    rw [serve_regWrite]
    obtain ⟨w, -, h⟩ | ⟨a, -, h⟩ | ⟨p, -, h⟩ | h := writeReg_cases (regOf n) v (setReply none s)
    · exact h ▸ execWord_completes w _
    all_goals exact ⟨_, h⟩
  | reset => exact ⟨_, serve_reset s⟩

/-- Every event completes (R104), so `transact` is what it does. -/
theorem serve_eq_transact (e : Event) (s : State) : serve e s = .next (transact e s) := by
  obtain ⟨t, h⟩ := serve_completes e s
  rw [transact_of_serve h, h]

/-- One step of the machine is the transaction asked for next, with the others still to come. -/
theorem step_setRequests_cons (e : Event) (es : List Event) (s : State) :
    step (setRequests (e :: es) s) = .next (setRequests es (transact e s)) :=
  calc
    step (setRequests (e :: es) s) = serve e (setRequests es s) := step_serves rfl
    _ = .next (setRequests es (transact e s)) := serve_setRequests es (serve_eq_transact e s)

theorem run_succ_of_step {M : Host.Core} {s t : M.State} (h : M.step s = .next t) (k : Nat) :
    M.run (k + 1) s = M.run k t := by
  rw [Host.Core.run, h]

/-- A step that serves one event of a run leaves the run of the others. -/
theorem run_setRequests_cons (e : Event) (es : List Event) (k : Nat) (s : State) :
    core.run (k + 1) (setRequests (e :: es) s) = core.run k (setRequests es (transact e s)) :=
  run_succ_of_step (M := core) (s := setRequests (e :: es) s) (step_setRequests_cons e es s) k

theorem run_setRequests_append : ∀ (es later : List Event) (s : State),
    core.run es.length (setRequests (es ++ later) s) = .next (setRequests later (serveAll es s))
  | [], _, _ => rfl
  | e :: es, later, s =>
    calc
      core.run (es.length + 1) (setRequests (e :: (es ++ later)) s) =
          core.run es.length (setRequests (es ++ later) (transact e s)) :=
        run_setRequests_cons e (es ++ later) es.length s
      _ = .next (setRequests later (serveAll es (transact e s))) := run_setRequests_append es later (transact e s)

/-- Settles O14, by induction on the events: each step serves one and leaves the rest asked for. -/
theorem transactionsApplyOneAfterAnother : Obligations.TransactionsApplyOneAfterAnother :=
  fun s es later => run_setRequests_append es later s

end Sys2Proof.Machine
end

section
/-! PROOFS. The decoder by the fields of the word (R40 to R44): a word is read as a command exactly when its three
fields are the command's own. -/

namespace Sys2Proof

/-- R43: a command without an operand is read only from a word whose `ARG` is zero. -/
theorem noOperand_eq_ok_iff {w : CmdWord} {i j : Instr} : noOperand w j = .ok i ↔ argField w = 0 ∧ j = i := by
  unfold noOperand
  split
  · next h => simp [h]
  · next h => simp [show ¬ argField w = 0#8 from h]

/-- R43: the word a command is read from has `RSV` zero, the command's `OPCODE`, and its operand in `ARG`. -/
theorem decode_eq_ok_iff {w : CmdWord} {i : Instr} :
    decode w = .ok i ↔ rsvField w = 0 ∧ opcodeField w = i.opcode ∧ i.arg = (argField w).toNat := by
  constructor
  · intro h
    unfold decode at h
    split_ifs at h with hrsv hop hop hop hop hop hop
    · cases h
      exact ⟨hrsv, hop, rfl⟩
    · cases h
      exact ⟨hrsv, hop, rfl⟩
    · obtain ⟨harg, rfl⟩ := noOperand_eq_ok_iff.mp h
      exact ⟨hrsv, hop, by rw [harg]; rfl⟩
    · obtain ⟨harg, rfl⟩ := noOperand_eq_ok_iff.mp h
      exact ⟨hrsv, hop, by rw [harg]; rfl⟩
    · cases h
      exact ⟨hrsv, hop, rfl⟩
    · obtain ⟨harg, rfl⟩ := noOperand_eq_ok_iff.mp h
      exact ⟨hrsv, hop, by rw [harg]; rfl⟩
  · rintro ⟨hrsv, hop, harg⟩
    cases i with
    | mask p | subnet m | split t => simp_all [decode, Instr.opcode, Instr.arg]
    | subnetp | succ | next =>
      have hzero : argField w = 0 := BitVec.eq_of_toNat_eq harg.symm
      simp [decode, noOperand, hrsv, hop, hzero, Instr.opcode]

theorem exists_decode_error_iff {w : CmdWord} : (∃ e, decode w = .error e) ↔ ∀ i, decode w ≠ .ok i := by
  cases decode w <;> simp

theorem toNat_ofNat_arg {i : Instr} : (BitVec.ofNat 8 i.arg).toNat = i.arg ↔ i.WellFormed := by
  rw [BitVec.toNat_ofNat, Nat.mod_eq_iff_lt (by decide)]
  exact Nat.lt_succ_iff

/-- Settles O1: the fields of `encode i` are the command's own but for the operand bits above `ARG`. -/
theorem decodeReadsTheEncodedCommand : Obligations.DecodeReadsTheEncodedCommand := by
  intro i
  rw [decode_eq_ok_iff, rsvField_encode, opcodeField_encode, argField_encode, ← toNat_ofNat_arg, eq_comm (a := i.arg)]
  simp

/-- Settles O2: a word is its three fields, and those of an accepted word are the command's. -/
theorem encodeGivesBackTheDecodedWord : Obligations.EncodeGivesBackTheDecodedWord := by
  intro w i h
  obtain ⟨hrsv, hop, harg⟩ := decode_eq_ok_iff.mp h
  have hfield : BitVec.ofNat 8 i.arg = argField w := by rw [harg, BitVec.ofNat_toNat, BitVec.setWidth_eq]
  refine ⟨?_, toNat_ofNat_arg.mp (by rw [hfield, harg])⟩
  rw [word_eq_fields w, hrsv, hop, encode, hfield]
  rfl

/-- Every command's word is selected by the command's own row of the opcode map (R42). -/
theorem encode_selected_by_row (i : Instr) : Laws.EncodesInRow.Statement i := by
  cases i with
  | mask p => exact Laws.EncodesInRow.mask p
  | subnet m => exact Laws.EncodesInRow.subnet m
  | subnetp => exact Laws.EncodesInRow.subnetp
  | succ => exact Laws.EncodesInRow.succ
  | split t => exact Laws.EncodesInRow.split t
  | next => exact Laws.EncodesInRow.next

/-- Every row of R42 fixes all bits of `RSV`, as zero, and all bits of `OPCODE`. -/
theorem opcodeTable_fixes_rsv_opcode : ∀ r ∈ opcodeTable,
    rsvField r.mask = BitVec.allOnes 16 ∧ rsvField r.pattern = 0 ∧ opcodeField r.mask = BitVec.allOnes 8 := by
  decide

theorem opcodeTable_opcode_injective : ∀ r ∈ opcodeTable, ∀ r' ∈ opcodeTable,
    opcodeField r.pattern = opcodeField r'.pattern → r = r' := by
  decide

/-- A word that a row selects has `RSV` zero and the row's `OPCODE`. -/
theorem fields_of_selected {r : OpcodeRow} (hr : r ∈ opcodeTable) {w : CmdWord} (h : w &&& r.mask = r.pattern) :
    rsvField w = 0 ∧ opcodeField w = opcodeField r.pattern := by
  obtain ⟨hrsv, hzero, hop⟩ := opcodeTable_fixes_rsv_opcode r hr
  have hrsv' := congrArg rsvField h
  have hop' := congrArg opcodeField h
  simp only [rsvField, opcodeField, BitVec.extractLsb'_and] at *
  rw [hrsv, BitVec.and_allOnes] at hrsv'
  rw [hop, BitVec.and_allOnes] at hop'
  exact ⟨hrsv'.trans hzero, hop'⟩

/-- Settles O3: an accepted word is its command's encoding, which the command's row selects; a selected word has `RSV`
zero, and the other two fields are given. -/
theorem wordSelectsCommandByMaskAndMatch : Obligations.WordSelectsCommandByMaskAndMatch := by
  refine ⟨rfl, fun w i => ⟨fun h => ?_, ?_⟩⟩
  · obtain ⟨-, hop, harg⟩ := decode_eq_ok_iff.mp h
    obtain ⟨hsel, hrow, hname⟩ := encode_selected_by_row i
    rw [(encodeGivesBackTheDecodedWord w i h).1] at hsel
    exact ⟨i.row, hrow, beq_iff_eq.mp hsel, hname, harg, hop.symm⟩
  · rintro ⟨r, hr, hsel, -, harg, hop⟩
    exact decode_eq_ok_iff.mpr ⟨(fields_of_selected hr hsel).1, hop.symm, harg⟩

/-- R42: the opcodes are 0x01 to 0x06. -/
theorem toNat_opcode (i : Instr) : 0 < i.opcode.toNat ∧ i.opcode.toNat ≤ 6 := by
  cases i <;> simp [Instr.opcode]

theorem decode_rejects_rsv {w : CmdWord} (h : rsvField w ≠ 0) : ∃ e, decode w = .error e :=
  exists_decode_error_iff.mpr fun _ hi => h (decode_eq_ok_iff.mp hi).1

theorem decode_rejects_opcode {w : CmdWord} (h : opcodeField w = 0x00 ∨ 0x06 < (opcodeField w).toNat) :
    ∃ e, decode w = .error e := by
  refine exists_decode_error_iff.mpr fun i hi => ?_
  obtain ⟨-, hop, -⟩ := decode_eq_ok_iff.mp hi
  obtain ⟨hpos, hle⟩ := toNat_opcode i
  rw [hop] at h
  obtain h | h := h
  · simp [h] at hpos
  · omega

/-- R43: with `RSV` zero, the opcode of a command without an operand is read as it exactly when `ARG` is zero. -/
theorem decode_of_noOperand {w : CmdWord} {i : Instr} (hi : i = .subnetp ∨ i = .succ ∨ i = .next)
    (hrsv : rsvField w = 0) (hop : opcodeField w = i.opcode) :
    if argField w = 0 then decode w = .ok i else ∃ e, decode w = .error e := by
  have hread : decode w = noOperand w i := by
    obtain rfl | rfl | rfl := hi <;> simp [decode, hrsv, hop, Instr.opcode]
  rw [hread, noOperand]
  split <;> simp

/-- R43: "The six match/mask pairs of rule R42 are pairwise disjoint". -/
theorem row_eq_of_selects {w : CmdWord} {r r' : OpcodeRow} (hr : r ∈ opcodeTable) (hr' : r' ∈ opcodeTable)
    (h : r.selects w = true) (h' : r'.selects w = true) : r = r' := by
  obtain ⟨-, hop⟩ := fields_of_selected hr (beq_iff_eq.mp h)
  obtain ⟨-, hop'⟩ := fields_of_selected hr' (beq_iff_eq.mp h')
  exact opcodeTable_opcode_injective r hr r' hr' (hop.symm.trans hop')

open Machine in
/-- Settles O4: each case is one arm of the decoder; a word two rows select has both rows' `OPCODE`. -/
theorem decoderFollowsItsCases : Obligations.DecoderFollowsItsCases := by
  refine ⟨fun w => ⟨decode_rejects_rsv, fun hrsv => ?_⟩, fun w s e he => ?_,
    fun w r hr r' hr' => row_eq_of_selects hr hr'⟩
  · exact ⟨fun hop => decode_eq_ok_iff.mpr ⟨hrsv, hop, rfl⟩,
      fun hop => decode_eq_ok_iff.mpr ⟨hrsv, hop, rfl⟩,
      decode_of_noOperand (.inl rfl) hrsv,
      decode_of_noOperand (.inr (.inl rfl)) hrsv,
      fun hop => decode_eq_ok_iff.mpr ⟨hrsv, hop, rfl⟩,
      decode_of_noOperand (.inr (.inr rfl)) hrsv,
      decode_rejects_opcode⟩
  · rw [serve_issue, execWord_error he]
    rfl

end Sys2Proof
end

section
/-! PROOFS. The legal words, counted by the commands they are read as (R44), and the worked encodings. -/

namespace Sys2Proof

/-- The commands a word can express: 256 operands of each of `MASK`, `SUBNET` and `SPLIT`, and the three others. -/
def legalCommands : List Instr :=
  (List.range 256).map .mask ++ (List.range 256).map .subnet ++ (List.range 256).map .split ++ [.subnetp, .succ, .next]

theorem length_legalCommands : legalCommands.length = 771 := by
  simp [legalCommands]

theorem mem_legalCommands_iff {i : Instr} : i ∈ legalCommands ↔ i.WellFormed := by
  cases i with
  | mask p | subnet m | split t => simp [legalCommands, Instr.arg, Nat.lt_succ_iff]
  | subnetp | succ | next => simp [legalCommands, Instr.arg]

theorem nodup_legalCommands : legalCommands.Nodup := by
  have operands {f : Nat → Instr} (hf : f.Injective) : ((List.range 256).map f).Nodup := List.nodup_range.map hf
  have hmask := operands fun _ _ => Instr.mask.inj
  have hsubnet := operands fun _ _ => Instr.subnet.inj
  have hsplit := operands fun _ _ => Instr.split.inj
  simp [legalCommands, List.nodup_append, hmask, hsubnet, hsplit, or_imp, forall_and]

/-- Two commands with one word are the same, when the encoding can express them. -/
theorem encode_injective {i j : Instr} (hi : i.WellFormed) (hj : j.WellFormed) (h : encode i = encode j) : i = j := by
  have hdecode := (decodeReadsTheEncodedCommand i).mpr hi
  rw [h, (decodeReadsTheEncodedCommand j).mpr hj] at hdecode
  exact (Except.ok.inj hdecode).symm

theorem nodup_legalWords : (legalCommands.map encode).Nodup :=
  nodup_legalCommands.map_on fun _ hi _ hj =>
    encode_injective (mem_legalCommands_iff.mp hi) (mem_legalCommands_iff.mp hj)

theorem mem_legalWords_iff {w : CmdWord} : w ∈ legalCommands.map encode ↔ ∃ i, decode w = .ok i := by
  rw [List.mem_map]
  constructor
  · rintro ⟨i, hi, rfl⟩
    exact ⟨i, (decodeReadsTheEncodedCommand i).mpr (mem_legalCommands_iff.mp hi)⟩
  · rintro ⟨i, hi⟩
    obtain ⟨hword, hwf⟩ := encodeGivesBackTheDecodedWord w i hi
    exact ⟨i, mem_legalCommands_iff.mpr hwf, hword⟩

/-- Settles O5: the legal words are the encodings of the well-formed commands, each of its own command. -/
theorem exactly771WordsAreLegal : Obligations.Exactly771WordsAreLegal :=
  ⟨⟨legalCommands.map encode, (List.length_map encode).trans length_legalCommands, nodup_legalWords,
    fun _ => mem_legalWords_iff⟩, ⟨.unknownOpcode, by decide⟩, ⟨.reservedBits, by decide⟩⟩

/-- Settles O6: the decoder evaluated at each of the sixteen words. -/
theorem workedEncodingsDecode : Obligations.WorkedEncodingsDecode := by
  unfold Obligations.WorkedEncodingsDecode
  decide

end Sys2Proof
end

section
/-! PROOFS. The lines of a host program as transactions (R45), what issuing a command's own word does, and the `INFO`
case (R46). -/

namespace Sys2Proof.Machine

/-- R45: `(arg << 8) | opcode` is the word with these fields and `RSV` zero. -/
theorem operandWord_eq (arg op : BitVec 8) : operandWord arg (op.setWidth 32) = 0#16 ++ arg ++ op := by
  apply BitVec.eq_of_getLsbD_eq
  intro k hk
  simp only [operandWord, BitVec.getLsbD_or, BitVec.getLsbD_shiftLeft, BitVec.getLsbD_setWidth, BitVec.getLsbD_append]
  by_cases hop : k < 8
  · simp [hk, hop]
  · by_cases harg : k - 8 < 8
    · simp [hk, hop, harg, show k - 8 < 32 by omega, BitVec.getLsbD_of_ge op k (by omega)]
    · simp [hop, harg, BitVec.getLsbD_of_ge arg (k - 8) (by omega), BitVec.getLsbD_of_ge op k (by omega)]

/-- The operand word is the encoding of the command with that operand. -/
theorem operandWord_eq_encode {i : Instr} {arg : BitVec 8} (h : i.arg = arg.toNat) :
    operandWord arg (i.opcode.setWidth 32) = encode i := by
  rw [operandWord_eq, encode, h, BitVec.ofNat_toNat, BitVec.setWidth_eq]

theorem lineEvent_mask (p : BitVec 8) : lineEvent (.mask p) = issue (encode (.mask p.toNat)) :=
  congrArg issue (operandWord_eq_encode (i := .mask p.toNat) rfl)

theorem lineEvent_subnet (m : BitVec 8) : lineEvent (.subnet m) = issue (encode (.subnet m.toNat)) :=
  congrArg issue (operandWord_eq_encode (i := .subnet m.toNat) rfl)

theorem lineEvent_split (t : BitVec 8) : lineEvent (.split t) = issue (encode (.split t.toNat)) :=
  congrArg issue (operandWord_eq_encode (i := .split t.toNat) rfl)

theorem regOf_number (r : Reg) : regOf r.number = some r := by
  cases r <;> rfl

/-- Settles O7: the command words with an operand are the operand's word, the others are literally their encodings. -/
theorem linesIssueTheEncodedCommand : Obligations.LinesIssueTheEncodedCommand :=
  ⟨fun _ => rfl, fun _ => rfl, fun r => ⟨rfl, regOf_number r⟩, lineEvent_mask, lineEvent_subnet, rfl, rfl,
    lineEvent_split, rfl, fun _ => rfl⟩

/-- The state a command executes in: `CMD` holds its word, and the host is told nothing (R32). -/
def issued (i : Instr) (s : State) : State := setCmd (encode i) (setReply none s)

theorem sameReads_issued (i j : Instr) (s : State) : sameReads i s (issued j s) := by
  cases i with
  | mask p => trivial
  | subnet m | succ => rfl
  | subnetp | split t => exact ⟨rfl, rfl⟩
  | next => exact ⟨rfl, rfl, rfl, rfl⟩

section
variable {i : Instr} (hi : i.WellFormed) {s : State}
include hi

/-- R32, R43: issuing a command's own word executes the command. -/
theorem serve_issue_encode : serve (issue (encode i)) s = exec i (issued i s) := by
  rw [serve_issue, execWord_ok ((decodeReadsTheEncodedCommand i).mpr hi)]
  rfl

theorem transact_issue_of_error {e : ErrKind} (h : commandError i s = some e) :
    transact (issue (encode i)) s = setErr (errCode e) (issued i s) := by
  rw [commandError_congr (sameReads_issued i i s)] at h
  exact transact_of_serve ((serve_issue_encode hi).trans (exec_of_error h))

theorem transact_issue_of_no_error (h : commandError i s = none) :
    transact (issue (encode i)) s = setErr 0 (commandWrites i (issued i s)) := by
  rw [commandError_congr (sameReads_issued i i s)] at h
  exact transact_of_serve ((serve_issue_encode hi).trans (exec_of_no_error h))

end

/-- An operand taken from a register of 8 bits fits `ARG` (R41). -/
theorem toNat_le_maxArg (b : BitVec 8) : b.toNat ≤ Config.maxArg := Nat.le_of_lt_succ b.isLt

theorem subnetp_wellFormed : Instr.subnetp.WellFormed := Nat.zero_le _

theorem next_wellFormed : Instr.next.WellFormed := Nat.zero_le _

/-- The state after `LDA a/n` (R46). -/
def loaded (a : Addr) (n : BitVec 8) (s : State) : State :=
  setAPfx n (setReply none (setAAddr a (setReply none s)))

theorem serveAll_append : ∀ (es es' : List Event) (s : State), serveAll (es ++ es') s = serveAll es' (serveAll es s)
  | [], _, _ => rfl
  | e :: es, es', s => serveAll_append es es' (transact e s)

theorem serveAll_lda (a : Addr) (n : BitVec 8) (s : State) : serveAll ((lda a n).map lineEvent) s = loaded a n s := rfl

/-- The reads of `INFO` change nothing but what the host was told last, which is `S_MASK`. -/
theorem serveAll_infoReads (s : State) :
    serveAll ([.rd .rAddr, .rd .sBegin, .rd .sEnd, .rd .sMask].map lineEvent) s =
      setReply (some ⟨0x07, s.sMask⟩) s := rfl

/-- R46: `INFO` issues `MASK n` and `SUBNETP`, then reads. -/
theorem serveAll_info (n : BitVec 8) (s : State) :
    serveAll ((info n).map lineEvent) s =
      serveAll ([.rd .rAddr, .rd .sBegin, .rd .sEnd, .rd .sMask].map lineEvent)
        (transact (issue (encode .subnetp)) (transact (issue (encode (.mask n.toNat))) s)) := by
  rw [← lineEvent_mask]
  rfl

/-- Settles O56: both commands check the same operand, so both end normally or both fail. -/
theorem infoCaseGivesMaskAndRange : Obligations.InfoCaseGivesMaskAndRange := by
  intro s a n
  have hmask : (Instr.mask n.toNat).WellFormed := toNat_le_maxArg n
  rw [List.map_append, serveAll_append, serveAll_lda, serveAll_info, serveAll_infoReads]
  by_cases hn : n.toNat ≤ 128
  · rw [transact_issue_of_no_error hmask (if_pos hn), transact_issue_of_no_error subnetp_wellFormed]
    · have hS : BitVec.ofNat 8 n.toNat = n := by rw [BitVec.ofNat_toNat, BitVec.setWidth_eq]
      refine ⟨rfl, rfl, fun _ => ⟨rfl, rfl, ?_, ?_⟩, fun h => absurd hn (by omega)⟩
      · exact congrArg (Subnet.mk · (rangeBegin a n.toNat) (rangeEnd a n.toNat)) (toNat_ofNat_mask hn)
      · exact congrArg (fun m : BitVec 8 => some (Reply.mk 0x07 m)) hS
    · exact if_pos hn
  · rw [transact_issue_of_error hmask (if_neg hn), transact_issue_of_error subnetp_wellFormed (e := .invalidMask)]
    · exact ⟨rfl, rfl, fun h => absurd h hn, fun _ => ⟨rfl, rfl, rfl⟩⟩
    · exact if_neg hn

end Sys2Proof.Machine
end

section
/-! PROOFS. The child sequence under `SPLIT` and `NEXT` (R65, R70, R71), and the host's `DRAIN` and `SPLITALL` over it
(R46). -/

namespace Sys2Proof.Machine

/-- `C`, `C_IDX` and `DEPTH` hold child `k` of `splitSubnet(S, t)` (R71). -/
structure State.AtChild (s : State) (S : Subnet) (t k : Nat) : Prop where
  child : childOf s = splitChild S t k
  cIdx : s.cIdx.toNat = k
  depth : s.depth.toNat = t - S.mask

theorem mask_splitChild (S : Subnet) (t : Nat) : ∀ k, (splitChild S t k).mask = t
  | 0 => rfl
  | _ + 1 => rfl

/-- R70: a `SPLIT` that passes its checks starts at child 0. -/
theorem atChild_zero_of_split {s : State} {t : Nat} (ht : t ≤ 128) :
    (commandWrites (.split t) s).AtChild (subnetOf s) t 0 where
  child := congrArg (Subnet.mk · (rangeBegin s.sBegin t) (rangeEnd s.sBegin t)) (toNat_ofNat_mask ht)
  cIdx := rfl
  depth := toNat_ofNat_mask ((Nat.sub_le _ _).trans ht)

namespace State.AtChild

variable {s : State} {S : Subnet} {t k : Nat} (h : s.AtChild S t k)
include h

/-- Being at a child is a matter of the registers of the sequence alone. -/
theorem congr {u : State} (hC : childOf u = childOf s) (hidx : u.cIdx = s.cIdx) (hdepth : u.depth = s.depth) :
    u.AtChild S t k :=
  ⟨hC.trans h.child, hidx ▸ h.cIdx, hdepth ▸ h.depth⟩

/-- R71: `LAST` marks the last child. -/
theorem isLast_iff : isLast s = true ↔ k = splitCount S t - 1 := by
  rw [Machine.isLast_iff, h.cIdx, h.depth, splitCount]

/-- R71: `NEXT`, issued before the last child, goes on to the following child. -/
theorem next (ht : t ≤ 128) (hk : k + 1 < splitCount S t) : (commandWrites .next s).AtChild S t (k + 1) where
  child := by
    have hmask : s.cMask.toNat = t := (congrArg Subnet.mask h.child).trans (mask_splitChild S t k)
    have hlast : s.cEnd = (splitChild S t k).last := congrArg Subnet.last h.child
    calc
      _ = rangeOf (successor s.cEnd) s.cMask.toNat := rfl
      _ = splitChild S t (k + 1) := by rw [hmask, hlast, splitChild]
  cIdx := by
    have hfits : splitCount S t ≤ 2 ^ 128 := Nat.pow_le_pow_right (by decide) ((Nat.sub_le _ _).trans ht)
    calc
      _ = (s.cIdx.toNat + 1) % 2 ^ 128 := BitVec.toNat_add _ _
      _ = k + 1 := by rw [h.cIdx, Nat.mod_eq_of_lt (by omega)]
  depth := h.depth

/-- R67: `C_COUNT` holds the count. -/
theorem childCount_eq (ht : t ≤ 128) : childCount s = BitVec.ofNat 129 (splitCount S t) := by
  have hdepth : s.depth.toNat ≤ 128 := h.depth ▸ (Nat.sub_le _ _).trans ht
  rw [splitCount, ← h.depth, ← toNat_childCount hdepth, BitVec.ofNat_toNat, BitVec.setWidth_eq]

end State.AtChild

/-- The host reads `LAST` in bit 4 of `STATUS` (R23). -/
theorem getLsbD_status_last (s : State) : (regRead 0x01 s).getLsbD 4 = isLast s := by
  obtain ⟨-, -, -, -, hlast⟩ := statusFieldsReadTheState s
  exact Bool.eq_iff_iff.mpr (hlast.trans (isLast_iff s).symm)

/-- The host reads `ERR` in bits 3:0 of `STATUS` (R23). -/
theorem extractLsb'_status_err (s : State) : (regRead 0x01 s).extractLsb' 0 4 = s.err :=
  (statusFieldsReadTheState s).1

/-- One turn of `DRAIN` (R46): the child is read, and unless it is the last, `NEXT` is issued and the loop goes on. -/
theorem children_drain_succ (fuel : Nat) (s : State) :
    (drain (fuel + 1) s).1 =
      (s.cBegin, s.cEnd) ::
        if isLast s then []
        else (drain fuel (transact (issue (encode .next)) (transact (.regRead 0x01) s))).1 := by
  rw [drain, getLsbD_status_last]
  split <;> rfl

/-- R46, R71: drained from child `k`, with room for the children left, the host reads each of them in order. -/
theorem children_drain {S : Subnet} {t : Nat} (ht : t ≤ 128) : ∀ {fuel k : Nat} {s : State}, s.AtChild S t k →
    k < splitCount S t → splitCount S t ≤ k + fuel →
      (drain fuel s).1 =
        (List.range' k (splitCount S t - k)).map fun j => ((splitChild S t j).first, (splitChild S t j).last)
  | 0, _, _, _, hk, hfuel => absurd hk (by omega)
  | fuel + 1, k, s, h, hk, hfuel => by
    have hchild : (s.cBegin, s.cEnd) = ((splitChild S t k).first, (splitChild S t k).last) :=
      congrArg (fun C : Subnet => (C.first, C.last)) h.child
    rw [children_drain_succ, hchild, show splitCount S t - k = splitCount S t - (k + 1) + 1 by omega,
      List.range'_succ, List.map_cons]
    congr 1
    split
    · next hlast =>
      have hk := h.isLast_iff.mp hlast
      rw [show splitCount S t - (k + 1) = 0 by omega]
      rfl
    · next hlast =>
      have hk := mt h.isLast_iff.mpr hlast
      have hlt : k + 1 < splitCount S t := by omega
      have hcheck : commandError .next (transact (.regRead 0x01) s) = none := if_neg hlast
      have hissued : (issued .next (transact (.regRead 0x01) s)).AtChild S t k := h.congr rfl rfl rfl
      rw [transact_issue_of_no_error next_wellFormed hcheck]
      exact children_drain ht ((hissued.next ht hlt).congr rfl rfl rfl) hlt (by omega)

/-- R46: `SPLITALL` issues the `SPLIT`, and if it ended normally reads the count and drains the sequence. -/
theorem splitAll_result (fuel : Nat) (t : BitVec 8) (s : State) :
    let u := transact (.regRead 0x01) (transact (issue (encode (.split t.toNat))) s)
    (splitAll fuel t s).1 =
      if u.err = 0 then some (childCount u, (drain fuel (transact (.regRead 0x0C) u)).1) else none := by
  rw [splitAll, extractLsb'_status_err, apply_ite Prod.fst, ← lineEvent_split]
  rfl

theorem splitSubnet_eq_error_iff {S : Subnet} {t : Nat} {e : ErrKind} :
    splitSubnet S t = .error e ↔ splitError S.mask t = some e := by
  unfold splitSubnet
  cases splitError S.mask t <;> simp

theorem splitSubnet_eq_ok_iff {S : Subnet} {t : Nat} {children : List Subnet} :
    splitSubnet S t = .ok children ↔
      splitError S.mask t = none ∧ (List.range (splitCount S t)).map (splitChild S t) = children := by
  unfold splitSubnet
  cases splitError S.mask t <;> simp

/-- Settles O57: `SPLIT` and `splitSubnet` make the same checks; where they pass the sequence starts at child 0, and
draining it, by induction on the fuel, reads every child from there. -/
theorem splitAllReadsEveryChild : Obligations.SplitAllReadsEveryChild := by
  intro s t fuel
  have hwf : (Instr.split t.toNat).WellFormed := toNat_le_maxArg t
  rw [splitAll_result]
  refine ⟨fun children hok hfuel => ?_, fun e herror => ?_⟩
  · obtain ⟨hcheck, rfl⟩ := splitSubnet_eq_ok_iff.mp hok
    obtain ⟨-, -, ht⟩ := splitError_eq_none.mp hcheck
    rw [List.length_map, List.length_range] at hfuel
    rw [transact_issue_of_no_error hwf hcheck]
    generalize hu : transact (.regRead 0x01) (setErr 0 (commandWrites (.split t.toNat) (issued (.split t.toNat) s))) = u
    have hstart : u.AtChild (subnetOf s) t.toNat 0 := hu ▸ (atChild_zero_of_split ht).congr rfl rfl rfl
    have hread : (transact (.regRead 0x0C) u).AtChild (subnetOf s) t.toNat 0 := hstart.congr rfl rfl rfl
    have herr : u.err = 0 := hu ▸ rfl
    rw [if_pos herr, hstart.childCount_eq ht, children_drain ht hread (Nat.two_pow_pos _) (by omega)]
    simp [List.range_eq_range']
  · rw [transact_issue_of_error hwf (splitSubnet_eq_error_iff.mp herror)]
    exact if_neg (errCode_ne_zero e)

end Sys2Proof.Machine
end

section
/-! PROOFS. The sweep's counts in closed form (R50), and the two byte masks as functions of the count (R51). -/

namespace Sys2Proof.Machine

/-- R50: the counter, started at the host bits of `n` bytes, hands the closed form to each of them. -/
theorem sweepFrom_eq_map_hostBits (p : Nat) : ∀ n, sweepFrom n (8 * n - p) = (List.range n).map (hostBits p)
  | 0 => rfl
  | n + 1 => by
    have hrest : 8 * (n + 1) - p - hostBits p n = 8 * n - p := by unfold hostBits; omega
    calc
      _ = sweepFrom n (8 * (n + 1) - p - hostBits p n) ++ [hostBits p n] := rfl
      _ = _ := by rw [hrest, sweepFrom_eq_map_hostBits p n, List.range_succ, List.map_append, List.map_singleton]

/-- The counts of `n` bytes sum to the bit positions of these bytes that are not before `p`. -/
theorem sum_map_hostBits (p n : Nat) : ((List.range n).map (hostBits p)).sum = 8 * n - p := by
  induction n with
  | zero => simp
  | succ n ih =>
    rw [List.sum_range_succ, ih]
    unfold hostBits
    omega

/-- The count of byte `i` is the number of its bit positions `>= p` (R50). -/
theorem hostBits_eq_length_filter (p i : Nat) :
    hostBits p i = ((List.range 8).filter fun j => decide (p ≤ 8 * i + j)).length := by
  have hshift : ∀ j, decide (p ≤ 8 * i + j) = decide (p - 8 * i ≤ j) := fun j => by
    rw [decide_eq_decide]
    omega
  simp only [hshift]
  rw [← List.Ico.zero_bot, List.Ico.filter_le, List.Ico.length]
  unfold hostBits
  omega

/-- Position `p` lies inside a byte that is partly host bits. -/
theorem of_hostBits_partial {p i : Nat} (hpos : 0 < hostBits p i) (hlt : hostBits p i < 8) :
    8 * i < p ∧ p < 8 * (i + 1) := by
  constructor
  · by_contra h
    have hfull : hostBits p i = 8 := hostBits_after (Nat.not_lt.mp h)
    omega
  · by_contra h
    have hnone : hostBits p i = 0 := hostBits_before (Nat.not_lt.mp h)
    omega

/-- Settles O26: the sweep by induction on the bytes; the byte `p` lies in has only network bytes before it and only host
bytes after it. -/
theorem sweepHandsOutTheHostBits : Obligations.SweepHandsOutTheHostBits := by
  refine ⟨fun p _ => sweepFrom_eq_map_hostBits p 16, fun p i => ?_, hostBits_eq_length_filter,
    fun p _ => sum_map_hostBits p 16, fun p i j hpos hlt => ?_⟩
  · unfold hostBits
    omega
  · obtain ⟨hfirst, hlast⟩ := of_hostBits_partial hpos hlt
    exact ⟨fun hj => hostBits_before (by omega), fun hj => hostBits_after (by omega)⟩

/-- R51: a count is at most 8, so `2^hb - 1` fits the byte. -/
theorem toNat_hostMask (p i : Nat) : (hostMask p i).toNat = 2 ^ hostBits p i - 1 := by
  have hfits : 2 ^ hostBits p i ≤ 2 ^ 8 := Nat.pow_le_pow_right (by decide) (hostBits_le p i)
  rw [hostMask, Nat.one_shiftLeft, BitVec.toNat_ofNat]
  exact Nat.mod_eq_of_lt (by omega)

/-- The listed values of R51, computed for each count. -/
theorem byteMasks_of_count : ∀ hb, hb ≤ 8 →
    ([0x00, 0x01, 0x03, 0x07, 0x0f, 0x1f, 0x3f, 0x7f, 0xff] : List Byte)[hb]? =
      some (BitVec.ofNat 8 ((1 <<< hb) - 1)) ∧
    ([0xff, 0xfe, 0xfc, 0xf8, 0xf0, 0xe0, 0xc0, 0x80, 0x00] : List Byte)[hb]? =
      some (~~~ BitVec.ofNat 8 ((1 <<< hb) - 1)) := by
  decide

/-- Settles O27: the masks depend on the count alone, which is at most 8. -/
theorem byteMasksByHostBitCount : Obligations.ByteMasksByHostBitCount :=
  fun p i => ⟨toNat_hostMask p i, rfl, BitVec.toNat_not, byteMasks_of_count _ (hostBits_le p i)⟩

/-- A byte wholly before position `p` is all network bits. -/
theorem netMask_before {p i : Nat} (h : 8 * (i + 1) ≤ p) : netMask p i = 0xff := by
  rw [netMask, hostMask, hostBits_before h]
  rfl

/-- A byte wholly from position `p` on is all host bits. -/
theorem netMask_after {p i : Nat} (h : p ≤ 8 * i) : netMask p i = 0x00 := by
  rw [netMask, hostMask, hostBits_after h]
  rfl

end Sys2Proof.Machine
end

section
/-! PROOFS. The mask pattern by bit positions and as a number (R52, R54). -/

namespace Sys2Proof.Machine

/-- R54 (a): the first `p` positions are 1. -/
theorem getMsbD_maskAddress (p : Nat) {q : Nat} (hq : q < 128) : (maskAddress p).getMsbD q = decide (q < p) := by
  rw [maskAddress, getMsbD_ofBytes _ hq, getMsbD_netMask p _ (Nat.mod_lt q (by decide)), Nat.div_add_mod]

/-- The mask pattern of `p` begins the range of the all-one address at mask `p`. -/
theorem maskAddress_eq_rangeBegin (p : Nat) : maskAddress p = rangeBegin (BitVec.allOnes 128) p :=
  BitVec.eq_of_getMsbD_eq fun q hq => by
    rw [getMsbD_maskAddress p hq, getMsbD_rangeBegin _ p hq, BitVec.getMsbD_allOnes]
    simp [hq]

theorem rangeEnd_allOnes (m : Nat) : rangeEnd (BitVec.allOnes 128) m = BitVec.allOnes 128 :=
  BitVec.eq_of_getMsbD_eq fun q hq => by
    rw [getMsbD_rangeEnd _ m hq, BitVec.getMsbD_allOnes]
    simp [hq]

/-- R52: the range of the all-one address ends at `2^128 - 1` and begins at the last multiple of its size. -/
theorem toNat_maskAddress {p : Nat} (hp : p ≤ 128) : (maskAddress p).toNat = 2 ^ 128 - 2 ^ (128 - p) := by
  have hvalid : (rangeOf (BitVec.allOnes 128) p).Valid := rangeOf_valid _ hp
  have hmod := hvalid.first_mod
  have hend := hvalid.last_add_one
  have hsplit := Nat.div_add_mod (maskAddress p).toNat (2 ^ (128 - p))
  simp only [rangeOf, ← maskAddress_eq_rangeBegin, rangeEnd_allOnes, Nat.mul_succ] at hmod hend
  rw [BitVec.toNat_allOnes] at hend
  omega

/-- A pattern is known by its number. -/
theorem maskAddress_eq {p : Nat} (hp : p ≤ 128) {a : Addr} (h : 2 ^ 128 - 2 ^ (128 - p) = a.toNat) :
    maskAddress p = a :=
  BitVec.eq_of_toNat_eq ((toNat_maskAddress hp).trans h)

/-- Settles O28: the bytes are the definition's, the bits those of the bytes, the number that of the range's begin. -/
theorem maskAddressHasTheLeadingBitsSet : Obligations.MaskAddressHasTheLeadingBitsSet :=
  ⟨fun p hp => ⟨fun _ => byte_maskAddress p, fun _ => getMsbD_maskAddress p, toNat_maskAddress hp⟩,
    maskAddress_eq (by decide) (by decide), maskAddress_eq (by decide) (by decide)⟩

/-- R54 (b): the 1 bits are at the positions 0 to `p - 1`. -/
theorem length_filter_getMsbD_maskAddress {p : Nat} (hp : p ≤ 128) :
    ((List.range 128).filter fun q => (maskAddress p).getMsbD q).length = p := by
  have hbits : ∀ q ∈ List.range 128, (maskAddress p).getMsbD q = decide (q < p) := fun q hq =>
    getMsbD_maskAddress p (List.mem_range.mp hq)
  rw [List.filter_congr hbits, ← List.Ico.zero_bot, List.Ico.filter_lt, List.Ico.length]
  omega

/-- R54 (c): of two patterns the shorter has a part of the other's leading bits. -/
theorem maskAddress_and_of_le {p p' : Nat} (h : p ≤ p') : maskAddress p &&& maskAddress p' = maskAddress p :=
  BitVec.eq_of_getMsbD_eq fun q hq => by
    rw [BitVec.getMsbD_and, getMsbD_maskAddress p hq, getMsbD_maskAddress p' hq, ← Bool.decide_and, decide_eq_decide]
    omega

theorem maskAddress_toNat_mono {p p' : Nat} (h : p ≤ p') : (maskAddress p).toNat ≤ (maskAddress p').toNat := by
  rw [← maskAddress_and_of_le h, BitVec.toNat_and]
  exact Nat.and_le_right

/-- R54 (d): equal patterns have as many 1 bits. -/
theorem maskAddress_injective {p p' : Nat} (hp : p ≤ 128) (hp' : p' ≤ 128) (h : maskAddress p = maskAddress p') :
    p = p' := by
  rw [← length_filter_getMsbD_maskAddress hp, h, length_filter_getMsbD_maskAddress hp']

/-- Settles O29: (a) gives (b) and (c) position by position, (b) gives (d), and (e) is a byte and its complement. -/
theorem maskPatternProperties : Obligations.MaskPatternProperties :=
  ⟨fun p _ _ hq => by rw [getMsbD_maskAddress p hq, decide_eq_true_iff],
    fun _ => length_filter_getMsbD_maskAddress,
    fun _ _ h _ => ⟨maskAddress_and_of_le h, maskAddress_toNat_mono h⟩,
    fun _ _ => maskAddress_injective,
    fun _ _ => ⟨BitVec.and_not_self _, BitVec.or_not_self _⟩⟩

end Sys2Proof.Machine
end

section
/-! PROOFS. The word of a command as a number (R40, R42), and `MASK` (R53). -/

namespace Sys2Proof.Machine

/-- R40: the word of a well-formed command is `(arg << 8) | opcode`, `RSV` being zero. -/
theorem encode_eq_ofNat {i : Instr} (h : i.WellFormed) : encode i = BitVec.ofNat 32 (i.arg * 256 + i.opcode.toNat) := by
  have hop := toNat_opcode i
  have harg : i.arg ≤ 255 := h
  apply BitVec.eq_of_toNat_eq
  calc (encode i).toNat
      = 256 * (256 * 0 + (BitVec.ofNat 8 i.arg).toNat) + i.opcode.toNat := by
        rw [encode, toNat_append_byte, toNat_append_byte]
        rfl
    _ = (i.arg * 256 + i.opcode.toNat) % 2 ^ 32 := by
        rw [toNat_ofNat_arg.mpr h]
        omega
    _ = _ := (BitVec.toNat_ofNat _ _).symm

theorem exec_mask_of_le {p : Nat} (hp : p ≤ 128) (s : State) :
    exec (.mask p) s = .next { s with rAddr := maskAddress p, err := 0 } := by
  rw [exec_mask, if_pos hp]
  rfl

theorem exec_mask_of_gt {p : Nat} (hp : 128 < p) (s : State) : exec (.mask p) s = .next { s with err := 2 } := by
  rw [exec_mask, if_neg (by omega)]
  rfl

/-- R53: at a multiple of 8 each byte is wholly network or wholly host. -/
theorem netMask_eight_mul (k i : Nat) : netMask (8 * k) i = if i < k then 0xff else 0x00 := by
  split
  · exact netMask_before (by omega)
  · exact netMask_after (by omega)

/-- The result of `MASK` is known by its number. -/
theorem exec_mask_eq {p : Nat} (hp : p ≤ 128) {a : Addr} (h : 2 ^ 128 - 2 ^ (128 - p) = a.toNat) (s : State) :
    exec (.mask p) s = .next { s with rAddr := a, err := 0 } := by
  rw [exec_mask_of_le hp, maskAddress_eq hp h]

/-- Settles O30: up to 128 the result is the mask pattern, known by its bytes, bits and number; above, the check fails. -/
theorem maskCommand : Obligations.MaskCommand := by
  refine ⟨fun p hp => encode_eq_ofNat (i := .mask p) hp, fun s p hp => ?_, fun s p hp => exec_mask_of_gt hp s,
    fun s k i hk hi => ?_, fun s => ?_⟩
  · exact ⟨_, exec_mask_of_le hp s, rfl, fun _ => byte_maskAddress p, fun _ => getMsbD_maskAddress p⟩
  · exact ⟨_, exec_mask_of_le (by omega) s, (byte_maskAddress _ hi).trans (netMask_eight_mul k i)⟩
  · exact ⟨exec_mask_eq (by decide) (by decide) s, exec_mask_eq (by decide) (by decide) s,
      exec_mask_eq (by decide) (by decide) s, exec_mask_eq (by decide) (by decide) s⟩

end Sys2Proof.Machine
end

section
/-! PROOFS. The range of an address by bytes (R55), and as numbers: it is the block of `2^(128 - m)` addresses that share
the number before the mask (R58). -/

namespace Sys2Proof.Machine

/-- Settles O31: the range check decides, and the bytes are the definition's. -/
theorem subnetFromAddressByBytes : Obligations.SubnetFromAddressByBytes := by
  intro a m
  rw [subnetFromAddress_eq]
  exact ⟨fun hm => if_neg (by omega),
    fun hm => ⟨rangeOf a m, if_pos hm, rfl, fun _ hi => ⟨byte_rangeBegin a m hi, byte_rangeEnd a m hi⟩⟩⟩

section
variable (a : Addr) {m : Nat} (hm : m ≤ 128)
include hm

theorem toNat_rangeBegin : (rangeBegin a m).toNat = a.toNat / 2 ^ (128 - m) * 2 ^ (128 - m) := by
  have hmod : (rangeBegin a m).toNat % 2 ^ (128 - m) = 0 := (rangeOf_valid a hm).first_mod
  rw [← rangeBegin_div a hm, Nat.div_mul_cancel (Nat.dvd_of_mod_eq_zero hmod)]

/-- R58 (a): the range has `2^(128 - m)` addresses. -/
theorem toNat_rangeEnd : (rangeEnd a m).toNat = (rangeBegin a m).toNat + 2 ^ (128 - m) - 1 := by
  have hend : (rangeEnd a m).toNat + 1 = 2 ^ (128 - m) * ((rangeBegin a m).toNat / 2 ^ (128 - m) + 1) :=
    (rangeOf_valid a hm).last_add_one
  rw [rangeBegin_div a hm, Nat.mul_comm, Nat.succ_mul, ← toNat_rangeBegin a hm] at hend
  exact Nat.eq_sub_of_add_eq hend

/-- R58: the addresses of one range are those with the same number before the mask. -/
theorem contains_rangeOf_iff (b : Addr) :
    (rangeOf a m).Contains b ↔ b.toNat / 2 ^ (128 - m) = a.toNat / 2 ^ (128 - m) := by
  rw [Nat.div_eq_iff (Nat.two_pow_pos _), ← toNat_rangeBegin a hm, ← toNat_rangeEnd a hm]
  rfl

theorem contains_rangeOf_self : (rangeOf a m).Contains a := (contains_rangeOf_iff a hm a).mpr rfl

theorem contains_rangeOf_first : (rangeOf a m).Contains (rangeOf a m).first :=
  have ⟨hfirst, hlast⟩ := contains_rangeOf_self a hm
  ⟨le_rfl, hfirst.trans hlast⟩

theorem contains_rangeOf_last : (rangeOf a m).Contains (rangeOf a m).last :=
  have ⟨hfirst, hlast⟩ := contains_rangeOf_self a hm
  ⟨hfirst.trans hlast, le_rfl⟩

end

/-- R58 (b): the range is the same whichever of its addresses it is taken around. -/
theorem rangeOf_eq_of_contains {a b : Addr} {m : Nat} (hm : m ≤ 128) (h : (rangeOf a m).Contains b) :
    rangeOf b m = rangeOf a m := by
  have hdiv := (contains_rangeOf_iff a hm b).mp h
  have hbegin : rangeBegin b m = rangeBegin a m :=
    BitVec.eq_of_toNat_eq (by rw [toNat_rangeBegin b hm, toNat_rangeBegin a hm, hdiv])
  have hend : rangeEnd b m = rangeEnd a m :=
    BitVec.eq_of_toNat_eq (by rw [toNat_rangeEnd b hm, toNat_rangeEnd a hm, hbegin])
  rw [rangeOf, rangeOf, hbegin, hend]

theorem rangeOf_rangeBegin (a : Addr) {m : Nat} (hm : m ≤ 128) : rangeOf (rangeBegin a m) m = rangeOf a m :=
  rangeOf_eq_of_contains hm (contains_rangeOf_first a hm)

theorem rangeOf_rangeEnd (a : Addr) {m : Nat} (hm : m ≤ 128) : rangeOf (rangeEnd a m) m = rangeOf a m :=
  rangeOf_eq_of_contains hm (contains_rangeOf_last a hm)

/-- R58 (d): addresses that agree before a longer mask agree before the shorter one. -/
theorem contains_rangeOf_of_le {a b : Addr} {m m' : Nat} (hmm : m ≤ m') (hm' : m' ≤ 128)
    (h : (rangeOf a m').Contains b) : (rangeOf a m).Contains b := by
  have hpow : 2 ^ (128 - m) = 2 ^ (128 - m') * 2 ^ (m' - m) := by
    rw [← Nat.pow_add]
    congr 1
    omega
  rw [contains_rangeOf_iff a hm'] at h
  rw [contains_rangeOf_iff a (hmm.trans hm'), hpow, ← Nat.div_div_eq_div_mul, h, Nat.div_div_eq_div_mul]

/-- Settles O32: the bits by position, the rest from the ends as numbers. -/
theorem rangeOfAnAddress : Obligations.RangeOfAnAddress := by
  intro a m hm
  obtain ⟨hfirst, hlast⟩ := contains_rangeOf_self a hm
  refine ⟨fun q hq => ?_, rangeOf_valid a hm, hfirst, hlast, ?_, rangeOf_rangeBegin a hm, rangeOf_rangeEnd a hm,
    fun b => rangeOf_eq_of_contains hm, Dvd.intro_left _ (toNat_rangeBegin a hm).symm, fun m' hmm hm' => ?_⟩
  · rw [rangeOf, getMsbD_rangeBegin a m hq, getMsbD_rangeEnd a m hq]
    split
    · next hnetwork => simp [hnetwork]
    · next hhost => simp [hhost, Nat.not_lt.mp hhost]
  · rw [rangeOf, toNat_rangeEnd a hm, Nat.add_sub_assoc Nat.one_le_two_pow, Nat.add_sub_cancel_left]
  · exact ⟨(contains_rangeOf_of_le hmm hm' (contains_rangeOf_first a hm')).1,
      (contains_rangeOf_of_le hmm hm' (contains_rangeOf_last a hm')).2⟩

end Sys2Proof.Machine
end

section
/-! PROOFS. The range through the mask pattern (R59), and `SUBNET` and `SUBNETP` (R56, R57). -/

namespace Sys2Proof.Machine

theorem rangeBegin_eq_and_maskAddress (a : Addr) (m : Nat) : rangeBegin a m = a &&& maskAddress m :=
  BitVec.eq_of_getMsbD_eq fun q hq => by
    rw [getMsbD_rangeBegin a m hq, BitVec.getMsbD_and, getMsbD_maskAddress m hq]

theorem rangeEnd_eq_or_not_maskAddress (a : Addr) (m : Nat) : rangeEnd a m = a ||| ~~~ maskAddress m :=
  BitVec.eq_of_getMsbD_eq fun q hq => by
    rw [getMsbD_rangeEnd a m hq, BitVec.getMsbD_or, BitVec.getMsbD_not, getMsbD_maskAddress m hq]
    simp only [hq, decide_true, Bool.true_and, ← decide_not, Nat.not_lt]

/-- The host-bit byte mask is the complement of the pattern's byte (R51, R52). -/
theorem not_byte_maskAddress (m : Nat) {i : Nat} (hi : i < 16) : ~~~ byte (maskAddress m) i = hostMask m i := by
  rw [byte_maskAddress m hi, netMask, BitVec.not_not]

/-- Settles O33: the patterns agree byte by byte and bit by bit, and neither the check nor the writes of `SUBNET` name
`R_ADDR`. -/
theorem rangeThroughTheMaskPattern : Obligations.RangeThroughTheMaskPattern := by
  refine ⟨fun a m i _ hi => ?_,
    fun a m _ => ⟨rangeBegin_eq_and_maskAddress a m, rangeEnd_eq_or_not_maskAddress a m⟩, fun s t m x h => ?_⟩
  · rw [not_byte_maskAddress m hi, byte_maskAddress m hi]
    exact ⟨byte_rangeBegin a m hi, byte_rangeEnd a m hi⟩
  · obtain ⟨e, he, rfl⟩ | ⟨hn, rfl⟩ := exec_next_cases h
    · exact ⟨rfl, exec_of_error he⟩
    · exact ⟨rfl, exec_of_no_error hn⟩

/-- R56: no network bits, the whole address space. -/
theorem rangeOf_zero (a : Addr) : rangeOf a 0 = ⟨0, 0, BitVec.allOnes 128⟩ := by
  have hpattern : maskAddress 0 = 0#128 := maskAddress_eq (by decide) (by decide)
  rw [rangeOf, rangeBegin_eq_and_maskAddress, rangeEnd_eq_or_not_maskAddress, hpattern, BitVec.and_zero,
    BitVec.not_zero, BitVec.or_allOnes]
  rfl

/-- R56: no host bits, the address alone. -/
theorem rangeOf_128 (a : Addr) : rangeOf a 128 = ⟨128, a, a⟩ := by
  have hpattern : maskAddress 128 = BitVec.allOnes 128 := maskAddress_eq (by decide) (by decide)
  rw [rangeOf, rangeBegin_eq_and_maskAddress, rangeEnd_eq_or_not_maskAddress, hpattern, BitVec.and_allOnes,
    BitVec.not_allOnes, BitVec.or_zero]

theorem hostMask_eight_mul (k i : Nat) : hostMask (8 * k) i = if i < k then 0x00 else 0xff := by
  rw [← BitVec.not_not (b := hostMask (8 * k) i), ← netMask, netMask_eight_mul]
  split <;> rfl

/-- R56: at a multiple of 8 each byte is the address's own or wholly host bits. -/
theorem byte_rangeOf_eight_mul (a : Addr) (k : Nat) {i : Nat} (hi : i < 16) :
    byte (rangeBegin a (8 * k)) i = (if i < k then byte a i else 0x00) ∧
      byte (rangeEnd a (8 * k)) i = if i < k then byte a i else 0xff := by
  rw [byte_rangeBegin _ _ hi, byte_rangeEnd _ _ hi, netMask_eight_mul, hostMask_eight_mul]
  split
  · exact ⟨BitVec.and_allOnes, BitVec.or_zero⟩
  · exact ⟨BitVec.and_zero, BitVec.or_allOnes⟩

section
variable {s : State} {m : Nat}

/-- R56: `S` takes the range of `A_ADDR`, whose ends are `b` and `e`, and nothing else but `ERR` is written. -/
theorem buildSubnet_of_rangeOf_eq (hm : m ≤ 128) {b e : Addr} (h : rangeOf s.aAddr m = ⟨m, b, e⟩) :
    buildSubnet m s = .next { s with sBegin := b, sEnd := e, sMask := BitVec.ofNat 8 m, err := 0 } := by
  rw [buildSubnet_eq, if_pos hm, h]
  rfl

theorem buildSubnet_of_gt (hm : 128 < m) : buildSubnet m s = .next { s with err := 2 } := by
  rw [buildSubnet_eq, if_neg (by omega)]
  rfl

end

/-- Settles O34: up to 128 the result is the range of `A_ADDR`, which its begin has as its own range; above, the check
fails. -/
theorem subnetCommand : Obligations.SubnetCommand := by
  refine ⟨fun m hm => encode_eq_ofNat (i := .subnet m) hm, fun s m hm => ?_, fun _ _ => buildSubnet_of_gt,
    fun s => ⟨buildSubnet_of_rangeOf_eq (by decide) (rangeOf_zero _),
      buildSubnet_of_rangeOf_eq (by decide) (rangeOf_128 _)⟩, fun s k i hk hi => ?_, fun s haddr => ?_⟩
  · exact ⟨_, buildSubnet_of_rangeOf_eq hm rfl, rfl, toNat_ofNat_mask hm,
      fun i hi => ⟨byte_rangeBegin _ _ hi, byte_rangeEnd _ _ hi⟩,
      buildSubnet_of_rangeOf_eq hm (rangeOf_rangeBegin _ hm)⟩
  · exact ⟨_, buildSubnet_of_rangeOf_eq (by omega) rfl, byte_rangeOf_eight_mul _ _ hi⟩
  · exact buildSubnet_of_rangeOf_eq (m := 64) (by decide) (by rw [haddr]; rfl)

/-- R43, R83: a word with the opcode of a command without an operand and a non-zero `ARG` is illegal. -/
theorem serve_issue_strayArg {i : Instr} (hi : i = .subnetp ∨ i = .succ ∨ i = .next) {arg : BitVec 8} (harg : arg ≠ 0)
    (s : State) :
    serve (issue (0#16 ++ arg ++ i.opcode)) s =
      .next { s with cmd := 0#16 ++ arg ++ i.opcode, err := 4, reply := none } := by
  have hread := decode_of_noOperand hi (rsvField_append 0#16 arg i.opcode) (opcodeField_append 0#16 arg i.opcode)
  rw [argField_append, if_neg harg] at hread
  obtain ⟨e, he⟩ := hread
  rw [serve_issue, execWord_error he]
  rfl

theorem exec_subnetp_of_rangeOf_eq {s : State} (hm : s.aPfx.toNat ≤ 128) {b e : Addr}
    (h : rangeOf s.aAddr s.aPfx.toNat = ⟨s.aPfx.toNat, b, e⟩) :
    exec .subnetp s = .next { s with sBegin := b, sEnd := e, sMask := s.aPfx, err := 0 } := by
  rw [exec_subnetp, buildSubnet_of_rangeOf_eq hm h, BitVec.ofNat_toNat, BitVec.setWidth_eq]

/-- Settles O35: `SUBNETP` is the shared work of `SUBNET` at the mask `A_PFX` holds. -/
theorem subnetpCommand : Obligations.SubnetpCommand := by
  refine ⟨rfl, fun s hm => ?_, fun _ => buildSubnet_of_gt, fun _ _ => rfl,
    fun s arg harg => serve_issue_strayArg (i := .subnetp) (.inl rfl) harg s, rfl, fun s haddr hpfx => ?_⟩
  · exact ⟨_, exec_subnetp_of_rangeOf_eq hm rfl, rfl, fun i hi => ⟨byte_rangeBegin _ _ hi, byte_rangeEnd _ _ hi⟩⟩
  · rw [← hpfx]
    exact exec_subnetp_of_rangeOf_eq (hpfx ▸ by decide) (by rw [haddr, hpfx]; rfl)

end Sys2Proof.Machine
end

section
/-! PROOFS. Which bytes the carry changes (R60), the successor as plus one (R61, R63) and the command `SUCC` (R62). -/

namespace Sys2Proof.Machine

/-- R60: the carry entering at byte `n - 1` clears the bytes of 0xff down to byte `m`, increments the byte before them, if
any, and stops there. -/
theorem byte_carryChain (a : Addr) {m n : Nat} (hmn : m ≤ n) (hn : n ≤ 16)
    (hff : ∀ i, m ≤ i → i < n → byte a i = 0xff) (hstop : ∀ i, i + 1 = m → byte a i ≠ 0xff) (r : Addr) {i : Nat}
    (hi : i < 16) :
    byte (carryChain a n r) i = if m ≤ i ∧ i < n then 0x00 else if i + 1 = m then byte a i + 1 else byte r i := by
  induction n, hmn using Nat.le_induction generalizing r with
  | base =>
    rw [if_neg (by omega)]
    cases m with
    | zero => rw [carryChain, if_neg (by omega)]
    | succ k =>
      have hinc : byte a k + 1 ≠ 0 := by have := hstop k rfl; bv_omega
      rw [carryChain_succ, if_neg hinc, byte_setByte r (by omega) _ hi]
      by_cases hik : i = k <;> simp [hik]
  | succ n hmn ih =>
    have hwrap : byte a n + 1 = 0 := by rw [hff n hmn n.lt_succ_self]; rfl
    rw [carryChain_succ, if_pos hwrap, hwrap, ih (by omega) (fun i him hin => hff i him (by omega)),
      byte_setByte r (by omega) _ hi]
    by_cases hin : i = n
    · simp [hin, hmn, show n + 1 ≠ m by omega]
    · simp [hin, show i < n + 1 ↔ i < n by omega]

/-- Settles O36: the carry over all 16 bytes, the first of the trailing 0xff bytes being byte `16 - j`. -/
theorem successorChangesTheTrailingBytes : Obligations.SuccessorChangesTheTrailingBytes := by
  intro a j hj hff hstop i hi
  have hcarry : byte (successor a) i = _ := byte_carryChain a (m := 16 - j) (by omega) le_rfl
    (fun k hk hk16 => hff k hk16 (by omega)) (fun k hk => (show 15 - j = k by omega) ▸ hstop (by omega)) a hi
  simpa only [show 16 - j ≤ i ∧ i < 16 ↔ 16 ≤ i + j by omega, show i + 1 = 16 - j ↔ i + j = 15 by omega] using hcarry

/-- R61 as one addition of address values. -/
theorem successor_eq_add_one (a : Addr) : successor a = a + 1 := BitVec.eq_of_toNat_eq (toNat_successor a)

theorem allOnes_add_one : BitVec.allOnes 128 + 1 = 0 := by decide

/-- R62: `R_ADDR` takes the successor `b` of `A_ADDR`, and nothing else but `ERR` is written. -/
theorem exec_succ_of_add_one_eq {s : State} {b : Addr} (h : s.aAddr + 1 = b) :
    exec .succ s = .next { s with rAddr := b, err := 0 } := by
  rw [exec_succ, successor_eq_add_one, h]
  rfl

/-- Settles O37: the all-ones address plus one is 0, written like every other result. -/
theorem successorAddsOneAndWraps : Obligations.SuccessorAddsOneAndWraps :=
  ⟨toNat_successor, fun _ hs => exec_succ_of_add_one_eq (hs ▸ allOnes_add_one)⟩

theorem bijective_successor : Function.Bijective successor := by
  rw [funext successor_eq_add_one]
  exact (Equiv.addRight (1 : Addr)).bijective

theorem successor_ne_self (a : Addr) : successor a ≠ a := by
  rw [successor_eq_add_one, Ne, add_eq_left]
  decide

theorem lt_toNat_successor {a : Addr} (ha : a ≠ BitVec.allOnes 128) : a.toNat < (successor a).toNat := by
  have hne : a.toNat ≠ 2 ^ 128 - 1 := fun h => ha (BitVec.eq_of_toNat_eq (h.trans BitVec.toNat_allOnes.symm))
  rw [toNat_successor, Nat.mod_eq_of_lt (by omega)]
  exact a.toNat.lt_succ_self

/-- R63 (d): past `h` low bits of ones the carry adds one to the bits above and leaves zeros below. -/
theorem toNat_successor_of_mod (a : Addr) {h : Nat} (hh : h ≤ 128) (hlow : a.toNat % 2 ^ h = 2 ^ h - 1) :
    (successor a).toNat = 2 ^ h * ((a.toNat / 2 ^ h + 1) % 2 ^ (128 - h)) := by
  have hpos : 0 < 2 ^ h := Nat.two_pow_pos h
  have hsplit := Nat.div_add_mod a.toNat (2 ^ h)
  calc (successor a).toNat = (a.toNat + 1) % 2 ^ 128 := toNat_successor a
    _ = 2 ^ h * (a.toNat / 2 ^ h + 1) % (2 ^ h * 2 ^ (128 - h)) := by
      rw [← pow_add, show h + (128 - h) = 128 by omega, Nat.mul_succ, show
        2 ^ h * (a.toNat / 2 ^ h) + 2 ^ h = a.toNat + 1 by omega]
    _ = 2 ^ h * ((a.toNat / 2 ^ h + 1) % 2 ^ (128 - h)) := Nat.mul_mod_mul_left _ _ _

/-- Settles O38: the first three are properties of adding one, the last is the product above. -/
theorem successorProperties : Obligations.SuccessorProperties := by
  refine ⟨bijective_successor, successor_ne_self, fun _ => lt_toNat_successor, fun a h hh hlow => ?_⟩
  rw [toNat_successor_of_mod a hh hlow]
  exact ⟨Nat.mul_mod_right _ _, Nat.mul_div_cancel_left _ (Nat.two_pow_pos h)⟩

/-- Settles O39: `SUCC` does not read what it writes, so repeating it gives the same state. -/
theorem succCommand : Obligations.SuccCommand := by
  refine ⟨rfl, fun s => ?_, fun s arg harg => serve_issue_strayArg (i := .succ) (.inr (.inl rfl)) harg s, fun s => ?_⟩
  · exact ⟨_, exec_succ_of_add_one_eq rfl, rfl, (successor_eq_add_one _).symm, rfl, exec_succ_of_add_one_eq rfl⟩
  · exact ⟨exec_succ_of_add_one_eq allOnes_add_one, exec_succ_of_add_one_eq rfl, exec_succ_of_add_one_eq rfl,
      exec_succ_of_add_one_eq rfl⟩

end Sys2Proof.Machine
end

section
/-! PROOFS. The children of a split as blocks of `2^(128 - t)` addresses, one after the other from the parent's begin:
their closed form (R69), and that they partition the parent's range (R68). -/

namespace Sys2Proof.Machine

/-- An address that is a multiple of its range's size begins that range. -/
theorem rangeBegin_eq_self {a : Addr} {m : Nat} (hm : m ≤ 128) (h : 2 ^ (128 - m) ∣ a.toNat) : rangeBegin a m = a :=
  BitVec.eq_of_toNat_eq ((toNat_rangeBegin a hm).trans (Nat.div_mul_cancel h))

/-- R65: every child is a range at the target. -/
theorem splitChild_eq_rangeOf (S : Subnet) (t : Nat) : ∀ k, ∃ a, splitChild S t k = rangeOf a t
  | 0 => ⟨_, rfl⟩
  | _ + 1 => ⟨_, rfl⟩

theorem splitChild_valid (S : Subnet) {t : Nat} (ht : t ≤ 128) (k : Nat) : (splitChild S t k).Valid := by
  obtain ⟨a, ha⟩ := splitChild_eq_rangeOf S t k
  exact ha ▸ rangeOf_valid a ht

namespace Subnet.Valid

variable {S : Subnet} (hS : S.Valid)
include hS

theorem first_dvd : 2 ^ (128 - S.mask) ∣ S.first.toNat := Nat.dvd_of_mod_eq_zero hS.first_mod

/-- A Subnet begins at a place of the smaller blocks too. -/
theorem size_dvd_first {t : Nat} (hmt : S.mask ≤ t) : 2 ^ (128 - t) ∣ S.first.toNat :=
  (Nat.pow_dvd_pow 2 (Nat.sub_le_sub_left hmt 128)).trans hS.first_dvd

/-- R54 (b): a Subnet has `2^(128 - mask)` addresses. -/
theorem toNat_last_add_one : S.last.toNat + 1 = S.first.toNat + 2 ^ (128 - S.mask) := by
  rw [hS.last_add_one, Nat.mul_succ, Nat.mul_div_cancel' hS.first_dvd]

/-- R66: a Subnet is the range of its own begin. -/
theorem rangeOf_first : rangeOf S.first S.mask = S := by
  have hbegin := rangeBegin_eq_self hS.mask_le hS.first_dvd
  have hend : rangeEnd S.first S.mask = S.last := by
    apply BitVec.eq_of_toNat_eq
    rw [toNat_rangeEnd _ hS.mask_le, hbegin, ← hS.toNat_last_add_one, Nat.add_sub_cancel]
  rw [rangeOf, hbegin, hend]

end Subnet.Valid

/-- R68: a child has `2^(128 - t)` addresses. -/
theorem splitChild_size (S : Subnet) {t : Nat} (ht : t ≤ 128) (k : Nat) :
    (splitChild S t k).last.toNat + 1 = (splitChild S t k).first.toNat + 2 ^ (128 - t) := by
  have hsize := (splitChild_valid S ht k).toNat_last_add_one
  rwa [mask_splitChild] at hsize

section
variable {S : Subnet} {t : Nat} (hS : S.Valid) (hmt : S.mask ≤ t) (ht : t ≤ 128)
include hmt ht

/-- R68: the children together have as many addresses as the parent. -/
theorem splitCount_mul_size : splitCount S t * 2 ^ (128 - t) = 2 ^ (128 - S.mask) := by
  rw [splitCount, ← Nat.pow_add]
  congr 1
  omega

/-- Every child's offset from the parent's begin lies inside the parent. -/
theorem child_offset_lt {k : Nat} (hk : k < splitCount S t) : k * 2 ^ (128 - t) < 2 ^ (128 - S.mask) := by
  rw [← splitCount_mul_size hmt ht]
  exact Nat.mul_lt_mul_of_pos_right hk (Nat.two_pow_pos _)

include hS

/-- The end of a child that begins in its place is followed by the place of the next; the successor does not wrap, the
next place lying in the parent. -/
theorem toNat_successor_splitChild_last {k : Nat} (hk : k + 1 < splitCount S t)
    (hfirst : (splitChild S t k).first.toNat = S.first.toNat + k * 2 ^ (128 - t)) :
    (successor (splitChild S t k).last).toNat = S.first.toNat + (k + 1) * 2 ^ (128 - t) := by
  have hplace : (splitChild S t k).last.toNat + 1 = S.first.toNat + (k + 1) * 2 ^ (128 - t) := by
    rw [splitChild_size S ht, hfirst, Nat.add_assoc, ← Nat.succ_mul]
  have hoffset := child_offset_lt hmt ht hk
  have hsize := hS.toNat_last_add_one
  have hlast := S.last.isLt
  rw [toNat_successor, hplace, Nat.mod_eq_of_lt (by omega)]

/-- R69: child `k` begins `k` blocks after the parent's begin. By induction: the successor of the previous end is a
multiple of the children's size, so it begins its own range. -/
theorem toNat_splitChild_first : ∀ {k : Nat}, k < splitCount S t →
    (splitChild S t k).first.toNat = S.first.toNat + k * 2 ^ (128 - t)
  | 0, _ => by
    have hbegin := rangeBegin_eq_self ht (hS.size_dvd_first hmt)
    rw [Nat.zero_mul, Nat.add_zero, splitChild, rangeOf, hbegin]
  | k + 1, hk => by
    have hprev := toNat_splitChild_first (Nat.lt_of_succ_lt hk)
    have hnext := toNat_successor_splitChild_last hS hmt ht hk hprev
    have hdvd : 2 ^ (128 - t) ∣ (successor (splitChild S t k).last).toNat :=
      hnext ▸ Nat.dvd_add (hS.size_dvd_first hmt) (Nat.dvd_mul_left _ _)
    rw [splitChild, rangeOf, rangeBegin_eq_self ht hdvd, hnext]

theorem toNat_splitChild_last_add_one {k : Nat} (hk : k < splitCount S t) :
    (splitChild S t k).last.toNat + 1 = S.first.toNat + (k + 1) * 2 ^ (128 - t) := by
  rw [splitChild_size S ht, toNat_splitChild_first hS hmt ht hk, Nat.add_assoc, ← Nat.succ_mul]

/-- R69: as a number, a child's begin is the parent's network part, then the child's own offset in the parent. -/
theorem splitChild_first_div_mod {k : Nat} (hk : k < splitCount S t) :
    (splitChild S t k).first.toNat / 2 ^ (128 - S.mask) = S.first.toNat / 2 ^ (128 - S.mask) ∧
      (splitChild S t k).first.toNat % 2 ^ (128 - S.mask) = k * 2 ^ (128 - t) := by
  have hlt := child_offset_lt hmt ht hk
  rw [toNat_splitChild_first hS hmt ht hk]
  constructor
  · rw [Nat.add_div_of_dvd_right hS.first_dvd, Nat.div_eq_of_lt hlt, Nat.add_zero]
  · rw [Nat.add_mod, hS.first_mod, Nat.zero_add, Nat.mod_mod, Nat.mod_eq_of_lt hlt]

/-- R69: "No addition ever carries into positions `< S.mask`". -/
theorem getMsbD_splitChild_first_network {k q : Nat} (hk : k < splitCount S t) (hq : q < S.mask) :
    (splitChild S t k).first.getMsbD q = S.first.getMsbD q := by
  obtain ⟨hdiv, -⟩ := splitChild_first_div_mod hS hmt ht hk
  have hbit := congrArg (·.testBit (S.mask - 1 - q)) hdiv
  simp only [Nat.testBit_div_two_pow] at hbit
  rwa [testBit_toNat_eq_getMsbD _ (by omega), testBit_toNat_eq_getMsbD _ (by omega),
    show 127 - (S.mask - 1 - q + (128 - S.mask)) = q by omega] at hbit

/-- R69: the positions from `S.mask` up to the target hold the child's index. -/
theorem getMsbD_splitChild_first_index {k q : Nat} (hk : k < splitCount S t) (hq : S.mask ≤ q) (hqt : q < t) :
    (splitChild S t k).first.getMsbD q = k.testBit (t - 1 - q) := by
  obtain ⟨-, hmod⟩ := splitChild_first_div_mod hS hmt ht hk
  have hbit := congrArg (·.testBit (127 - q)) hmod
  simp only [Nat.testBit_mod_two_pow, Nat.testBit_mul_two_pow] at hbit
  rwa [testBit_toNat_eq_getMsbD _ (by omega), decide_eq_true (by omega), decide_eq_true (by omega), Bool.true_and,
    Bool.true_and, show 127 - (127 - q) = q by omega, show 127 - q - (128 - t) = t - 1 - q by omega] at hbit

/-- R68: a child begins where the one before it ends. -/
theorem splitChild_succ_first {k : Nat} (hk : k + 1 < splitCount S t) :
    (splitChild S t (k + 1)).first = successor (splitChild S t k).last := by
  have hprev := toNat_splitChild_first hS hmt ht (Nat.lt_of_succ_lt hk)
  apply BitVec.eq_of_toNat_eq
  rw [toNat_splitChild_first hS hmt ht hk, toNat_successor_splitChild_last hS hmt ht hk hprev]

/-- R68: the last child ends where the parent ends. -/
theorem splitChild_last_last : (splitChild S t (splitCount S t - 1)).last = S.last := by
  have hpos : 0 < splitCount S t := Nat.two_pow_pos _
  have hend := toNat_splitChild_last_add_one hS hmt ht (Nat.sub_lt hpos Nat.one_pos)
  rw [Nat.sub_add_cancel hpos, splitCount_mul_size hmt ht, ← hS.toNat_last_add_one] at hend
  exact BitVec.eq_of_toNat_eq (Nat.succ.inj hend)

/-- R68: an earlier child ends before a later one begins. -/
theorem splitChild_last_lt_first {j k : Nat} (hjk : j < k) (hk : k < splitCount S t) :
    (splitChild S t j).last.toNat < (splitChild S t k).first.toNat := by
  have hplace : (j + 1) * 2 ^ (128 - t) ≤ k * 2 ^ (128 - t) := Nat.mul_le_mul_right _ hjk
  have hend := toNat_splitChild_last_add_one hS hmt ht (hjk.trans hk)
  rw [toNat_splitChild_first hS hmt ht hk]
  omega

/-- An address lies in the child whose number is the address's offset in the parent, counted in blocks. -/
theorem contains_splitChild_iff {k : Nat} (hk : k < splitCount S t) (a : Addr) :
    (splitChild S t k).Contains a ↔
      S.first.toNat ≤ a.toNat ∧ (a.toNat - S.first.toNat) / 2 ^ (128 - t) = k := by
  have hend := toNat_splitChild_last_add_one hS hmt ht hk
  have hpos : 0 < 2 ^ (128 - t) := Nat.two_pow_pos _
  rw [Nat.succ_mul] at hend
  rw [Subnet.Contains, toNat_splitChild_first hS hmt ht hk, Nat.div_eq_iff hpos]
  omega

/-- An address lies in the parent when that offset is one of a child. -/
theorem contains_iff_block_lt_count (a : Addr) :
    S.Contains a ↔ S.first.toNat ≤ a.toNat ∧ (a.toNat - S.first.toNat) / 2 ^ (128 - t) < splitCount S t := by
  have hsize := hS.toNat_last_add_one
  rw [Subnet.Contains, Nat.div_lt_iff_lt_mul (Nat.two_pow_pos _), splitCount_mul_size hmt ht]
  omega

/-- R68: an address lies in the parent exactly when it lies in a child, and in that one only. -/
theorem contains_iff_unique_child (a : Addr) :
    S.Contains a ↔ ∃ k, k < splitCount S t ∧ (splitChild S t k).Contains a ∧
      ∀ j, j < splitCount S t → (splitChild S t j).Contains a → j = k := by
  rw [contains_iff_block_lt_count hS hmt ht]
  constructor
  · rintro ⟨hfirst, hlt⟩
    refine ⟨_, hlt, (contains_splitChild_iff hS hmt ht hlt a).mpr ⟨hfirst, rfl⟩, fun j hj hja => ?_⟩
    exact ((contains_splitChild_iff hS hmt ht hj a).mp hja).2.symm
  · rintro ⟨k, hk, hka, -⟩
    obtain ⟨hfirst, hblock⟩ := (contains_splitChild_iff hS hmt ht hk a).mp hka
    exact ⟨hfirst, hblock ▸ hk⟩

end

/-- Settles O43: the children are the blocks of their size from the parent's begin on, as many as fill the parent. -/
theorem childrenPartitionTheParent : Obligations.ChildrenPartitionTheParent := by
  intro S t hS _ hmt ht
  refine ⟨?_, splitChild_last_last hS hmt ht, fun k => splitChild_succ_first hS hmt ht,
    fun k _ => ⟨mask_splitChild S t k, splitChild_size S ht k⟩, fun j k => splitChild_last_lt_first hS hmt ht,
    contains_iff_unique_child hS hmt ht⟩
  exact rangeBegin_eq_self ht (hS.size_dvd_first hmt)

/-- Settles O44: the begin is the closed form's number, whose bits are the parent's network part and the index; the end
agrees with the begin before the target and is all ones from there on, a child being a valid Subnet. -/
theorem childrenHaveTheClosedForm : Obligations.ChildrenHaveTheClosedForm := by
  intro S t k hS _ hmt ht hk
  have hchild := splitChild_valid S ht k
  refine ⟨toNat_splitChild_first hS hmt ht hk, Nat.eq_sub_of_add_eq (splitChild_size S ht k), fun q hq => ?_⟩
  rcases Nat.lt_or_ge q t with hqt | hqt
  · rw [← hchild.network q ((mask_splitChild S t k).symm ▸ hqt), if_pos hqt, if_pos hqt, and_self]
    split
    · next hnet => exact getMsbD_splitChild_first_network hS hmt ht hk hnet
    · next hidx => exact getMsbD_splitChild_first_index hS hmt ht hk (Nat.not_lt.mp hidx) hqt
  · rw [if_neg (by omega), if_neg (by omega), if_neg (by omega), if_neg (by omega)]
    exact hchild.host q ((mask_splitChild S t k).symm ▸ hqt) hq

end Sys2Proof.Machine
end

section
/-! PROOFS. The source's `splitSubnet` (R65, R66), and `SPLIT` (R67, R70). -/

namespace Sys2Proof.Machine

theorem splitError_invalidMask {m t : Nat} (h : t < 1 ∨ 128 < t) : splitError m t = some .invalidMask := by
  rw [splitError_eq, if_pos h]

theorem splitError_notDeepenable {m t : Nat} (hpos : 1 ≤ t) (ht : t ≤ 128) (h : t < m) :
    splitError m t = some .maskNotDeepenable := by
  rw [splitError_eq, if_neg (by omega), if_pos h]

/-- R66: `MaskNotDeepenable` is for a target strictly shallower than the parent. -/
theorem lt_of_splitError_notDeepenable {m t : Nat} (h : splitError m t = some .maskNotDeepenable) : t < m := by
  rw [splitError_eq] at h
  split_ifs at h with hrange hlt
  · cases h
  · exact hlt

/-- Settles O40: the checks are those of `splitError`, and the children are listed by the recurrence. -/
theorem splitSubnetByRecurrence : Obligations.SplitSubnetByRecurrence := by
  refine fun S t => ⟨fun h => splitSubnet_eq_error_iff.mpr (splitError_invalidMask h),
    fun hpos ht h => splitSubnet_eq_error_iff.mpr (splitError_notDeepenable hpos ht h), fun hpos ht hmt => ?_⟩
  have hrange (a : Addr) : subnetFromAddress a t = .ok (rangeOf a t) := by rw [subnetFromAddress_eq, if_pos ht]
  have hcount : 0 < splitCount S t := Nat.two_pow_pos _
  refine ⟨_, splitSubnet_eq_ok_iff.mpr ⟨splitError_eq_none.mpr ⟨hpos, hmt, ht⟩, rfl⟩, by simp [splitCount],
    ⟨splitChild S t 0, by simp [hcount], hrange _⟩, fun k hk => ?_⟩
  have hk1 : k + 1 < splitCount S t := hk
  exact ⟨splitChild S t k, splitChild S t (k + 1), by simp [Nat.lt_of_succ_lt hk1], by simp [hk1], hrange _⟩

/-- Settles O41: at equal masks the count is 1, and a valid Subnet is the range of its own begin. -/
theorem equalMasksGiveTheParent : Obligations.EqualMasksGiveTheParent := by
  refine ⟨fun S hS hpos => ?_, fun S _ => splitSubnet_eq_error_iff.mpr (splitError_invalidMask (.inl Nat.one_pos)),
    fun S t h => lt_of_splitError_notDeepenable (splitSubnet_eq_error_iff.mp h)⟩
  refine splitSubnet_eq_ok_iff.mpr ⟨splitError_eq_none.mpr ⟨hpos, le_rfl, hS.mask_le⟩, ?_⟩
  have hone : splitCount S S.mask = 1 := by rw [splitCount, Nat.sub_self, Nat.pow_zero]
  rw [hone, List.range_one, List.map_singleton, splitChild, hS.rangeOf_first]

section
variable {s : State} {t : Nat}

/-- R70: `C` takes child 0 of `S`, whose ends are `b` and `e`, and nothing else but `C_IDX`, `DEPTH` and `ERR` is
written. -/
theorem exec_split_of_rangeOf_eq (hpos : 1 ≤ t) (hmt : s.sMask.toNat ≤ t) (ht : t ≤ 128) {b e : Addr}
    (h : rangeOf s.sBegin t = ⟨t, b, e⟩) :
    exec (.split t) s =
      .next { s with
        cBegin := b, cEnd := e, cMask := BitVec.ofNat 8 t, cIdx := 0, depth := BitVec.ofNat 8 (t - s.sMask.toNat),
        err := 0 } := by
  have hcheck : commandError (.split t) s = none := splitError_eq_none.mpr ⟨hpos, hmt, ht⟩
  rw [exec_of_no_error hcheck, commandWrites, h]
  rfl

theorem exec_split_invalidMask (h : t = 0 ∨ 128 < t) : exec (.split t) s = .next { s with err := 2 } :=
  exec_of_error (e := .invalidMask) (splitError_invalidMask (by omega))

theorem exec_split_notDeepenable (hpos : 1 ≤ t) (ht : t ≤ 128) (h : t < s.sMask.toNat) :
    exec (.split t) s = .next { s with err := 3 } :=
  exec_of_error (e := .maskNotDeepenable) (splitError_notDeepenable hpos ht h)

/-- R70: a `SPLIT` that passes its checks starts a sequence of one child exactly when it deepens by nothing. -/
theorem isLast_firstChild_iff (hmt : s.sMask.toNat ≤ t) (ht : t ≤ 128) :
    isLast (commandWrites (.split t) s) = true ↔ t = s.sMask.toNat := by
  have hone : 2 ^ (t - s.sMask.toNat) ≤ 2 ^ 0 ↔ t - s.sMask.toNat ≤ 0 := Nat.pow_le_pow_iff_right (by decide)
  rw [(atChild_zero_of_split ht).isLast_iff, splitCount, subnetOf, eq_comm, Nat.sub_eq_zero_iff_le]
  exact hone.trans (by omega)

theorem toNat_childCount_firstChild (ht : t ≤ 128) :
    (childCount (commandWrites (.split t) s)).toNat = 2 ^ (t - s.sMask.toNat) := by
  have hdepth : (commandWrites (.split t) s).depth.toNat = t - s.sMask.toNat := (atChild_zero_of_split ht).depth
  rw [toNat_childCount (by omega), hdepth]

end

/-- Settles O42: the check passes, and the count fits `C_COUNT`. -/
theorem countIsExactAtEveryDepth : Obligations.CountIsExactAtEveryDepth := by
  exact fun s t hpos ht hmt => ⟨_, exec_split_of_rangeOf_eq hpos hmt ht rfl, rfl, toNat_childCount_firstChild ht, rfl,
    Nat.one_le_two_pow, Nat.pow_le_pow_right (by decide) (by omega)⟩

/-- Settles O45: where the checks pass the result is child 0, the range of `S_BEGIN` at the target; else the first check
that fails gives the code. -/
theorem splitCommand : Obligations.SplitCommand := by
  refine ⟨fun t ht => encode_eq_ofNat (i := .split t) ht, fun s t hpos ht hmt => ?_,
    fun s t => exec_split_invalidMask, fun s t => exec_split_notDeepenable, ?_, fun t hne => ?_,
    fun s hmask hbegin => ?_⟩
  · refine ⟨_, exec_split_of_rangeOf_eq hpos hmt ht rfl, rfl,
      fun i hi => ⟨byte_rangeBegin _ _ hi, byte_rangeEnd _ _ hi⟩, toNat_ofNat_mask ht, toNat_ofNat_mask (by omega),
      toNat_childCount_firstChild ht, isLast_firstChild_iff hmt ht, fun hinv => ⟨?_, ?_⟩, ?_⟩
    · exact rangeBegin_eq_self ht (hinv.subnet.size_dvd_first hmt)
    · rintro rfl
      exact congrArg Subnet.last hinv.subnet.rangeOf_first
    · rintro rfl
      have halone := rangeOf_128 s.sBegin
      exact (congrArg Subnet.last halone).trans (congrArg Subnet.first halone).symm
  · exact exec_split_of_rangeOf_eq (by decide) (by decide) (by decide) (rangeOf_128 0)
  · by_cases hrange : t = 0 ∨ 128 < t
    · exact ⟨2, by decide, exec_split_invalidMask hrange⟩
    · exact ⟨3, by decide, exec_split_notDeepenable (by omega) (by omega) (show t < 128 by omega)⟩
  · rw [exec_split_of_rangeOf_eq (by decide) (hmask ▸ by decide) (by decide) (by rw [hbegin]; rfl), hmask]
    rfl

end Sys2Proof.Machine
end

section
/-! PROOFS. Which events touch the child sequence (R76), and that the sequence runs through the children in order whatever
else the host does (R71). -/

namespace Sys2Proof.Machine

/-- `t` is at the same place of the same child sequence as `s`. -/
def State.SameSequence (s t : State) : Prop := childOf t = childOf s ∧ t.cIdx = s.cIdx ∧ t.depth = s.depth

theorem State.AtChild.of_sameSequence {s u : State} {S : Subnet} {t k : Nat} (h : s.AtChild S t k)
    (hsame : s.SameSequence u) : u.AtChild S t k :=
  have ⟨hC, hidx, hdepth⟩ := hsame
  h.congr hC hidx hdepth

theorem issuedWord_eq_none {r : Option Reg} (hr : r ≠ some .cmd) (v : BitVec (widthOf r)) : issuedWord r v = none := by
  unfold issuedWord
  split
  · exact absurd rfl hr
  · rfl

/-- A write to another register than `CMD` executes no command and leaves the child sequence alone. -/
theorem regWrite_sameSequence {n : RegNum} (hn : n ≠ 0x00) (v : BitVec (portWidth n)) (s : State) :
    s.SameSequence (transact (.regWrite n v) s) := by
  have hserve := serve_regWrite n v s
  obtain ⟨w, hr, -⟩ | ⟨a, -, h⟩ | ⟨p, -, h⟩ | h := writeReg_cases (regOf n) v (setReply none s)
  · exact absurd (eq_number_of_regOf_eq hr) hn
  all_goals
    rw [transact_of_serve (hserve.trans h)]
    exact ⟨rfl, rfl, rfl⟩

/-- An event is reset, or issues a word, or executes no command and leaves the child sequence alone. -/
theorem event_cases (e : Event) :
    e = .reset ∨ (∃ w, e = issue w) ∨ (commandOf e = none ∧ ∀ s : State, s.SameSequence (transact e s)) := by
  cases e with
  | regRead n => exact .inr (.inr ⟨rfl, fun s => ⟨rfl, rfl, rfl⟩⟩)
  | regWrite n v =>
    by_cases hn : n = 0x00
    · subst hn
      exact .inr (.inl ⟨v, rfl⟩)
    · have hnone : issuedWord (regOf n) v = none := issuedWord_eq_none (mt eq_number_of_regOf_eq hn) v
      exact .inr (.inr ⟨by rw [commandOf, hnone], regWrite_sameSequence hn v⟩)
  | reset => exact .inl rfl

/-- R32, R43: the command a word executes is the one it is read as, if any. -/
theorem commandOf_issue (w : CmdWord) : commandOf (issue w) = (decode w).toOption := by
  have hword : issuedWord (regOf 0x00) w = some w := rfl
  unfold commandOf issue
  simp only [hword]
  cases decode w <;> rfl

/-- The only event that executes a command is the issue of its word. -/
theorem eq_issue_encode_of_commandOf {e : Event} {i : Instr} (h : commandOf e = some i) :
    i.WellFormed ∧ e = issue (encode i) := by
  obtain rfl | ⟨w, rfl⟩ | ⟨hnone, -⟩ := event_cases e
  · cases h
  · cases hw : decode w with
    | ok j =>
      obtain rfl : j = i := by simpa [commandOf_issue, hw, Except.toOption] using h
      obtain ⟨rfl, hwf⟩ := encodeGivesBackTheDecodedWord w j hw
      exact ⟨hwf, rfl⟩
    | error e => simp [commandOf_issue, hw, Except.toOption] at h
  · cases hnone.symm.trans h

theorem startsSequence_of_split {e : Event} {s : State} {t : Nat} (h : commandOf e = some (.split t))
    (hcheck : splitError s.sMask.toNat t = none) : startsSequence e s = true := by
  simp [startsSequence, h, hcheck]

theorem advances_iff {e : Event} {s : State} :
    advances e s = true ↔ commandOf e = some .next ∧ isLast s = false := by
  simp [advances]

/-- R76: a command that neither starts the sequence nor advances it does not write it. -/
theorem commandWrites_sameSequence {i : Instr} (hsplit : ∀ t, i ≠ .split t) (hnext : i ≠ .next) (s : State) :
    s.SameSequence (commandWrites i s) := by
  cases i with
  | mask p | subnet m | subnetp | succ => exact ⟨rfl, rfl, rfl⟩
  | split t => exact absurd rfl (hsplit t)
  | next => exact absurd rfl hnext

/-- R76: an event that neither starts a sequence nor advances it leaves it alone. -/
theorem transact_sameSequence {e : Event} {s : State} (hstart : startsSequence e s = false)
    (hadvance : advances e s = false) : s.SameSequence (transact e s) := by
  obtain rfl | ⟨w, rfl⟩ | ⟨-, hsame⟩ := event_cases e
  · cases hstart
  · cases hw : decode w with
    | error e =>
      rw [transact_of_serve ((serve_issue w s).trans (execWord_error hw _))]
      exact ⟨rfl, rfl, rfl⟩
    | ok i =>
      have hcommand : commandOf (issue w) = some i := by rw [commandOf_issue, hw, Except.toOption]
      obtain ⟨rfl, hwf⟩ := encodeGivesBackTheDecodedWord w i hw
      cases hcheck : commandError i s with
      | some e =>
        rw [transact_issue_of_error hwf hcheck]
        exact ⟨rfl, rfl, rfl⟩
      | none =>
        rw [transact_issue_of_no_error hwf hcheck]
        refine commandWrites_sameSequence ?_ ?_ (issued i s)
        · rintro t rfl
          exact absurd (startsSequence_of_split hcommand hcheck) (Bool.eq_false_iff.mp hstart)
        · rintro rfl
          have hlast : isLast s = false := by simpa [commandError] using hcheck
          exact absurd (advances_iff.mpr ⟨hcommand, hlast⟩) (Bool.eq_false_iff.mp hadvance)
  · exact hsame s

/-- R76: of `S`, `C` and `R_ADDR`, `MASK` and `SUCC` write the last, `SUBNET` and `SUBNETP` the first. -/
theorem exec_writes_only {i : Instr} {s u : State} (h : exec i s = .next u) :
    ((∃ p, i = .mask p) ∨ i = .succ → u = { s with rAddr := u.rAddr, err := u.err }) ∧
    ((∃ m, i = .subnet m) ∨ i = .subnetp →
      u = { s with sBegin := u.sBegin, sEnd := u.sEnd, sMask := u.sMask, err := u.err }) := by
  obtain ⟨e, -, rfl⟩ | ⟨-, rfl⟩ := exec_next_cases h
  · exact ⟨fun _ => rfl, fun _ => rfl⟩
  · constructor
    · rintro (⟨p, rfl⟩ | rfl) <;> rfl
    · rintro (⟨m, rfl⟩ | rfl) <;> rfl

/-- Settles O50: an event that executes a command issues its word, and of the commands only `SPLIT` and `NEXT` write the
sequence. -/
theorem onlySplitAndNextTouchTheSequence : Obligations.OnlySplitAndNextTouchTheSequence :=
  ⟨fun _ _ => transact_sameSequence, fun _ _ _ => exec_writes_only⟩

/-- R73: a `NEXT` that succeeds goes on to the following child, which there is. -/
theorem State.AtChild.transact_of_advances {e : Event} {s : State} {S : Subnet} {t k : Nat} (h : s.AtChild S t k)
    (ht : t ≤ 128) (hk : k < splitCount S t) (hadvance : advances e s = true) :
    k + 1 < splitCount S t ∧ (transact e s).AtChild S t (k + 1) := by
  obtain ⟨hcommand, hlast⟩ := advances_iff.mp hadvance
  obtain ⟨hwf, rfl⟩ := eq_issue_encode_of_commandOf hcommand
  have hnot : ¬ isLast s = true := Bool.eq_false_iff.mp hlast
  have hk' := mt h.isLast_iff.mpr hnot
  have hlt : k + 1 < splitCount S t := by omega
  have hissued : (issued .next s).AtChild S t k := h.congr rfl rfl rfl
  rw [transact_issue_of_no_error hwf (if_neg hnot)]
  exact ⟨hlt, (hissued.next ht hlt).congr rfl rfl rfl⟩

/-- R71: from child `k` on, events that start no new sequence lead to the child as many places on as `NEXT` commands
among them succeed. -/
theorem State.AtChild.serveAll_of_keepsSequence {S : Subnet} {t : Nat} (ht : t ≤ 128) :
    ∀ {es : List Event} {s : State} {k : Nat}, s.AtChild S t k → k < splitCount S t → keepsSequence es s = true →
      k + nextsDone es s < splitCount S t ∧ (serveAll es s).AtChild S t (k + nextsDone es s)
  | [], _, _, h, hk, _ => ⟨hk, h⟩
  | e :: es, s, k, h, hk, hkeeps => by
    obtain ⟨hstart, hrest⟩ : startsSequence e s = false ∧ keepsSequence es (transact e s) = true := by
      simpa [keepsSequence] using hkeeps
    rw [nextsDone, serveAll, ← Nat.add_assoc]
    by_cases hadvance : advances e s = true
    · obtain ⟨hlt, hnext⟩ := h.transact_of_advances ht hk hadvance
      rw [if_pos hadvance]
      exact State.AtChild.serveAll_of_keepsSequence ht hnext hlt hrest
    · have hsame := transact_sameSequence hstart (Bool.eq_false_iff.mpr hadvance)
      rw [if_neg hadvance]
      exact State.AtChild.serveAll_of_keepsSequence ht (h.of_sameSequence hsame) hk hrest

theorem exec_next_of_isLast {s : State} (h : isLast s = true) : exec .next s = .next { s with err := 5 } :=
  exec_of_error (e := .endOfSequence) (if_pos h)

/-- R71: a `NEXT` issued at the last child fails and changes nothing but `CMD` and `ERR`. -/
theorem serve_issue_next_of_isLast {s : State} (h : isLast s = true) :
    serve (issue (encode .next)) s = .next { s with cmd := encode .next, err := 5, reply := none } :=
  (serve_issue_encode next_wellFormed).trans (exec_next_of_isLast (s := issued .next s) h)

/-- Settles O47: the `SPLIT` starts at child 0, and every event keeps the agreement with the sequence. -/
theorem streamAgreesWithTheSequence : Obligations.StreamAgreesWithTheSequence := by
  intro s t es hpos ht hmt S started u j hkeeps
  have hwf : (Instr.split t).WellFormed := ht.trans (by decide)
  have hcheck : commandError (.split t) s = none := splitError_eq_none.mpr ⟨hpos, hmt, ht⟩
  have hstart : started.AtChild S t 0 := by
    rw [show started = _ from transact_issue_of_no_error hwf hcheck]
    exact (atChild_zero_of_split ht).congr rfl rfl rfl
  obtain ⟨hlt, hu⟩ := hstart.serveAll_of_keepsSequence ht (Nat.two_pow_pos _) hkeeps
  rw [Nat.zero_add] at hlt hu
  have hcount : (childCount u).toNat = splitCount S t := by
    rw [toNat_childCount (hu.depth ▸ (Nat.sub_le _ _).trans ht), hu.depth, splitCount]
  exact ⟨hlt, hu.cIdx, hu.child, hcount, hu.isLast_iff,
    fun hlast => serve_issue_next_of_isLast (hu.isLast_iff.mpr hlast)⟩

end Sys2Proof.Machine
end

section
/-! PROOFS. `NEXT` under the invariants: it never steps from the all-ones address (R74); its result, frame and errors
(R73). -/

namespace Sys2Proof.Machine

theorem byte_allOnes {i : Nat} (hi : i < 16) : byte (BitVec.allOnes 128) i = 0xff := by
  apply BitVec.eq_of_getMsbD_eq
  intro j hj
  rw [getMsbD_byte _ hi hj, BitVec.getMsbD_allOnes, show (0xff : Byte) = BitVec.allOnes 8 from rfl,
    BitVec.getMsbD_allOnes, decide_eq_true hj, decide_eq_true (by omega)]

namespace Subnet.Valid

variable {C : Subnet} (hC : C.Valid)
include hC

/-- R63 (d): the carry out of a Subnet's host bits leaves zeros there. -/
theorem dvd_successor_last : 2 ^ (128 - C.mask) ∣ (successor C.last).toNat :=
  toNat_successor_of_mod C.last (Nat.sub_le _ _) hC.last_mod ▸ Nat.dvd_mul_right _ _

/-- R68, R73: the range that follows a Subnet begins at the successor of its end. -/
theorem rangeBegin_successor_last : rangeBegin (successor C.last) C.mask = successor C.last :=
  rangeBegin_eq_self hC.mask_le hC.dvd_successor_last

/-- R73: the carry passes every byte wholly from the mask on. -/
theorem bytes_of_carry {i : Nat} (hi : i < 16) (hmask : C.mask ≤ 8 * i) :
    byte C.last i = 0xff ∧ byte (successor C.last) i = 0x00 := by
  constructor
  · rw [← congrArg Subnet.last hC.rangeOf_first, rangeOf, byte_rangeEnd _ _ hi, hostMask, hostBits_after hmask]
    exact BitVec.or_allOnes
  · rw [← hC.rangeBegin_successor_last, byte_rangeBegin _ _ hi, netMask_after hmask]
    exact BitVec.and_zero

end Subnet.Valid

namespace State.Inv

variable {s : State} (h : s.Inv) (hlast : isLast s = false)
include h hlast

/-- R28 (C3): before the last child there is a next index, and `C_IDX` holds it. -/
theorem toNat_cIdx_add_one : (s.cIdx + 1).toNat = s.cIdx.toNat + 1 := by
  have hle := h.cIdx_le
  have hne : s.cIdx.toNat ≠ 2 ^ s.depth.toNat - 1 := mt (isLast_iff s).mpr (Bool.eq_false_iff.mp hlast)
  have hpow : 2 ^ s.depth.toNat ≤ 2 ^ 128 := Nat.pow_le_pow_right (by decide) h.depth_le_128
  rw [BitVec.toNat_add]
  exact Nat.mod_eq_of_lt (show s.cIdx.toNat + 1 < 2 ^ 128 by omega)

/-- R74: were the end all ones, the next child would begin at 0 and its index bits (R28 (C4)) would be 0. -/
theorem cEnd_ne_allOnes : s.cEnd ≠ BitVec.allOnes 128 := by
  intro hend
  have hsucc : successor s.cEnd = 0 := by rw [hend, successor_eq_add_one, allOnes_add_one]
  have hbegin : rangeBegin 0 s.cMask.toNat = 0 := rangeBegin_eq_self h.child.mask_le (Nat.dvd_zero _)
  have hindex := (setNextChild_inv h hlast).index
  rw [indexBits, setNextChild_cBegin, setNextChild_cIdx, h.toNat_cIdx_add_one hlast, hsucc, hbegin] at hindex
  simp at hindex

end State.Inv

/-- Settles O48: the successor adds one to any other address. -/
theorem nextNeverWraps : Obligations.NextNeverWraps := by
  intro s h hlast
  have hne := h.cEnd_ne_allOnes hlast
  have hgrows := lt_toNat_successor hne
  have hmod := toNat_successor s.cEnd
  exact ⟨hne, by omega⟩

/-- R73: `C` takes the range of the successor of the old `C_END`, whose ends are `b` and `e`, and nothing else but `C_IDX`
and `ERR` is written. -/
theorem exec_next_of_rangeOf_eq {s : State} (hlast : isLast s = false) {b e : Addr}
    (h : rangeOf (successor s.cEnd) s.cMask.toNat = ⟨s.cMask.toNat, b, e⟩) :
    exec .next s = .next { s with cBegin := b, cEnd := e, cIdx := s.cIdx + 1, err := 0 } := by
  obtain ⟨-, hbegin, hend⟩ := Subnet.mk.inj h
  have hcheck : commandError .next s = none := if_neg (Bool.eq_false_iff.mp hlast)
  rw [exec_of_no_error hcheck, commandWrites, hbegin, hend]
  rfl

theorem isLast_eq_false {s : State} (h : s.cIdx.toNat ≠ 2 ^ s.depth.toNat - 1) : isLast s = false :=
  Bool.eq_false_iff.mpr (mt (isLast_iff s).mp h)

theorem isLast_second_of_two {s : State} (hidx : s.cIdx = 1) (hdepth : s.depth = 1) : isLast s = true := by
  rw [isLast, hidx, hdepth]
  rfl

/-- R73: a sequence of one child ends with the first `NEXT`. -/
theorem exec_next_after_split_at_mask {s u : State} (hpos : 1 ≤ s.sMask.toNat) (hle : s.sMask.toNat ≤ 128)
    (h : exec (.split s.sMask.toNat) s = .next u) : exec .next u = .next { u with err := 5 } := by
  have hone := (isLast_firstChild_iff (s := s) le_rfl hle).mpr rfl
  rw [exec_split_of_rangeOf_eq hpos le_rfl hle rfl] at h
  cases h
  exact exec_next_of_isLast hone

/-- Settles O46: before the last child the result is the range of the successor, which a valid child's own end makes the
begin; at the last child the check fails. -/
theorem nextCommand : Obligations.NextCommand := by
  refine ⟨rfl, fun s hne => ?_, fun s hlast => ?_,
    fun s arg harg => serve_issue_strayArg (i := .next) (.inr (.inr rfl)) harg s, exec_next_of_isLast (by decide),
    fun s u => exec_next_after_split_at_mask, fun s hmask hend hidx hdepth => ?_⟩
  · have hlast := isLast_eq_false hne
    refine ⟨_, exec_next_of_rangeOf_eq hlast rfl, rfl,
      fun i hi => ⟨byte_rangeBegin _ _ hi, byte_rangeEnd _ _ hi⟩, fun h => ?_, fun hmask => ?_⟩
    · have hcIdx := h.toNat_cIdx_add_one hlast
      refine ⟨h.child.rangeBegin_successor_last, hcIdx, ?_, ?_, fun i hi hcarry => ?_⟩
      · rw [isLast_iff, ← hcIdx]
      · by_contra! hff
        exact h.cEnd_ne_allOnes hlast (eq_of_byte_eq fun i hi => (hff i hi).trans (byte_allOnes hi).symm)
      · exact h.child.bytes_of_carry hi (show s.cMask.toNat ≤ 8 * i by omega)
    · have halone := rangeOf_128 (successor s.cEnd)
      rw [hmask]
      exact ⟨congrArg Subnet.first halone, congrArg Subnet.last halone⟩
  · have hlast' := (isLast_iff s).mpr hlast
    exact ⟨exec_next_of_isLast hlast', exec_next_of_isLast (s := { s with err := 5 }) hlast'⟩
  · have hfirst : isLast s = false := by rw [isLast, hidx, hdepth]; rfl
    refine ⟨_, rfl, ?_, isLast_second_of_two rfl hdepth, exec_next_of_isLast (isLast_second_of_two rfl hdepth)⟩
    rw [exec_next_of_rangeOf_eq hfirst (by rw [hmask, hend, successor_eq_add_one]; rfl), hidx]
    rfl

end Sys2Proof.Machine
end

section
/-! PROOFS. How a command ends (R84 to R94): the code it leaves is the code of its check, a failed command leaves nothing
else, and an illegal word always fails with 4; and the idle engine (R93). -/

namespace Sys2Proof.Machine

/-- Settles O15: with no request there is no event to serve. -/
theorem idleEngineHoldsItsRegisters : Obligations.IdleEngineHoldsItsRegisters :=
  fun _ => step_idle

/-- R40: the commands whose opcode calls for a zero `ARG` take no operand. -/
theorem arg_eq_zero_of_opcode {i : Instr} (h : i.opcode.toNat = 0x03 ∨ i.opcode.toNat = 0x04 ∨ i.opcode.toNat = 0x06) :
    i.arg = 0 := by
  cases i with
  | mask p | subnet m | split t => simp [Instr.opcode] at h
  | subnetp | succ | next => rfl

/-- R44: a word with the opcode of a command without an operand and a non-zero `ARG` is illegal, whatever its `RSV`. -/
theorem decode_rejects_strayArg {w : CmdWord}
    (hop : (opcodeField w).toNat = 0x03 ∨ (opcodeField w).toNat = 0x04 ∨ (opcodeField w).toNat = 0x06)
    (harg : argField w ≠ 0) : ∃ e, decode w = .error e := by
  refine exists_decode_error_iff.mpr fun i hi => harg (BitVec.eq_of_toNat_eq ?_)
  obtain ⟨-, hcode, hfield⟩ := decode_eq_ok_iff.mp hi
  rw [hcode] at hop
  exact hfield.symm.trans (arg_eq_zero_of_opcode hop)

/-- R83: executing an illegal word sets `ERR` to 4 and does nothing else. -/
theorem execWord_of_illegal {w : CmdWord} (h : ∃ e, decode w = .error e) (s : State) :
    execWord w s = .next { s with err := 4 } :=
  have ⟨_, he⟩ := h
  execWord_error he s

/-- Settles O9: each of the three kinds of illegal word is rejected by the decoder. -/
theorem illegalWordChangesOnlyCmdAndErr : Obligations.IllegalWordChangesOnlyCmdAndErr := by
  intro s w es op hreq hkind
  have hillegal : ∃ e, decode w = .error e := by
    obtain hrsv | hlow | hhigh | ⟨hop, harg⟩ := hkind
    · exact decode_rejects_rsv hrsv
    · exact decode_rejects_opcode (.inl (BitVec.eq_of_toNat_eq (Nat.lt_one_iff.mp hlow)))
    · exact decode_rejects_opcode (.inr hhigh)
    · exact decode_rejects_strayArg hop harg
  rw [step_regWrite_cmd hreq, execWord_of_illegal hillegal]

/-- R84 for a word: whether it is illegal or its command fails, nothing but `ERR` is written. -/
theorem execWord_failed {w : CmdWord} {s u : State} (h : execWord w s = .next u) (herr : u.err ≠ 0) :
    u = { s with err := u.err } := by
  cases hw : decode w with
  | ok i =>
    rw [execWord_ok hw] at h
    obtain ⟨e, -, rfl⟩ | ⟨-, rfl⟩ := exec_next_cases h
    · rfl
    · exact absurd rfl herr
  | error e =>
    obtain rfl := raise_next.mp (execWord_error hw s ▸ h)
    rfl

/-- Settles O52: the word is executed in the state that already holds it in `CMD`. -/
theorem failedCommandChangesOnlyErrAndCmd : Obligations.FailedCommandChangesOnlyErrAndCmd :=
  fun s _ w h => execWord_failed (s := setCmd w (setReply none s)) h

/-- R87: no command reads `ERR`, and every command overwrites it. -/
theorem exec_setErr (i : Instr) (c : BitVec 4) (s : State) : exec i (setErr c s) = exec i s := by
  have hcheck : commandError i (setErr c s) = commandError i s := by cases i <;> rfl
  have hwrites : ok (commandWrites i (setErr c s)) = ok (commandWrites i s) := by cases i <;> rfl
  rw [exec_eq, exec_eq, hcheck, hwrites]
  rfl

/-- Settles O54: a failed command leaves the state it began in but for `ERR`, which it does not read. -/
theorem errIsOnlyTheLatestCode : Obligations.ErrIsOnlyTheLatestCode := by
  refine ⟨fun i s e => exec_setErr i e s, fun _ _ => rfl, fun _ _ => rfl, fun _ _ => rfl, fun i s u h herr => ?_⟩
  obtain ⟨e, -, rfl⟩ | ⟨-, rfl⟩ := exec_next_cases h
  · exact (exec_setErr i (errCode e) s).trans h
  · exact absurd rfl herr

/-- Settles O55: the decoder comes before every check, and the range of the target before the parent's mask. -/
theorem firstErrorInOrderIsRaised : Obligations.FirstErrorInOrderIsRaised := by
  refine ⟨fun s w e hw => ?_, fun s t => exec_split_invalidMask, fun s _ => exec_split_invalidMask (.inl rfl)⟩
  rw [transact_of_serve ((serve_issue w s).trans (execWord_of_illegal ⟨e, hw⟩ _))]

/-- R80: the codes tell the errors apart. -/
theorem errCode_injective : Function.Injective errCode := by
  intro e e' h
  cases e <;> cases e' <;> simp [errCode] at h ⊢

/-- R81, R83: what a decoded command's check can raise. -/
theorem commandError_eq_some_cases {i : Instr} {s : State} {e : ErrKind} (h : commandError i s = some e) :
    e = .invalidMask ∨ e = .maskNotDeepenable ∨ e = .endOfSequence := by
  cases i with
  | split t =>
    rw [commandError, splitError_eq] at h
    split_ifs at h
    · cases h
      exact .inl rfl
    · cases h
      exact .inr (.inl rfl)
  | succ => cases h
  | mask p | subnet m | subnetp =>
    rw [commandError] at h
    split_ifs at h
    cases h
    exact .inl rfl
  | next =>
    rw [commandError] at h
    split_ifs at h
    cases h
    exact .inr (.inr rfl)

theorem splitError_eq_invalidMask_iff {m t : Nat} : splitError m t = some .invalidMask ↔ t = 0 ∨ 129 ≤ t := by
  rw [splitError_eq]
  split_ifs <;> simp <;> omega

theorem splitError_eq_notDeepenable_iff {m t : Nat} :
    splitError m t = some .maskNotDeepenable ↔ 1 ≤ t ∧ t ≤ 128 ∧ t < m := by
  rw [splitError_eq]
  split_ifs <;> simp <;> omega

section
variable {i : Instr} {s u : State} (h : exec i s = .next u)
include h

/-- R94: a command ends with 0 exactly when its check passes. -/
theorem exec_err_eq_zero_iff : u.err = 0 ↔ commandError i s = none := by
  obtain ⟨e, he, rfl⟩ | ⟨hn, rfl⟩ := exec_next_cases h
  · exact iff_of_false (errCode_ne_zero e) (by simp [he])
  · exact iff_of_true rfl hn

/-- R94: a command ends with the code of an error exactly when its check raises that error. -/
theorem exec_err_eq_errCode_iff (e : ErrKind) : u.err = errCode e ↔ commandError i s = some e := by
  obtain ⟨e', he, rfl⟩ | ⟨hn, rfl⟩ := exec_next_cases h
  · simp [he, errCode_injective.eq_iff]
  · exact iff_of_false (errCode_ne_zero e).symm (by simp [hn])

/-- R82, R94: the codes of a command that only checks that `n` is a mask. -/
theorem exec_codes_of_maskCheck {n : Nat} (hcheck : commandError i s = if n ≤ 128 then none else some .invalidMask) :
    (u.err = 0 ↔ n ≤ 128) ∧ (u.err = 2 ↔ 129 ≤ n) ∧ (u.err = 0 ∨ u.err = 2) := by
  have hok : u.err = 0 ↔ n ≤ 128 := (exec_err_eq_zero_iff h).trans (by simp [hcheck])
  have hmask : u.err = 2 ↔ 129 ≤ n :=
    (exec_err_eq_errCode_iff h .invalidMask).trans (by simp [hcheck, Nat.lt_iff_add_one_le])
  exact ⟨hok, hmask, by rw [hok, hmask]; omega⟩

end

/-- R82, R85, R94: the codes of `SPLIT`. -/
theorem exec_split_codes {s u : State} {t : Nat} (h : exec (.split t) s = .next u) :
    (u.err = 0 ↔ max 1 s.sMask.toNat ≤ t ∧ t ≤ 128) ∧ (u.err = 2 ↔ t = 0 ∨ 129 ≤ t) ∧
      (u.err = 3 ↔ 1 ≤ t ∧ t ≤ 128 ∧ t < s.sMask.toNat) ∧ (u.err = 0 ∨ u.err = 2 ∨ u.err = 3) := by
  have hok : u.err = 0 ↔ max 1 s.sMask.toNat ≤ t ∧ t ≤ 128 := by
    rw [exec_err_eq_zero_iff h, commandError, splitError_eq_none, max_le_iff, and_assoc]
  have hmask : u.err = 2 ↔ t = 0 ∨ 129 ≤ t :=
    (exec_err_eq_errCode_iff h .invalidMask).trans splitError_eq_invalidMask_iff
  have hdeepen : u.err = 3 ↔ 1 ≤ t ∧ t ≤ 128 ∧ t < s.sMask.toNat :=
    (exec_err_eq_errCode_iff h .maskNotDeepenable).trans splitError_eq_notDeepenable_iff
  exact ⟨hok, hmask, hdeepen, by rw [hok, hmask, hdeepen]; omega⟩

/-- R89, R94: the codes of `NEXT`. -/
theorem exec_next_codes {s u : State} (h : exec .next s = .next u) :
    (u.err = 0 ↔ isLast s = false) ∧ (u.err = 5 ↔ isLast s = true) ∧ (u.err = 0 ∨ u.err = 5) := by
  have hok : u.err = 0 ↔ isLast s = false := (exec_err_eq_zero_iff h).trans (by simp [commandError])
  have hend : u.err = 5 ↔ isLast s = true :=
    (exec_err_eq_errCode_iff h .endOfSequence).trans (by simp [commandError])
  exact ⟨hok, hend, by rw [hok, hend]; exact (Bool.eq_false_or_eq_true _).symm⟩

/-- R81, R83, R94: no decoded command ends with 4, every illegal word does, and nothing ends with 1. -/
theorem execWord_codes {w : CmdWord} {s u : State} (h : execWord w s = .next u) :
    (u.err = 4 ↔ ∀ i, decode w ≠ .ok i) ∧ u.err ≠ 1 := by
  cases hw : decode w with
  | ok i =>
    rw [execWord_ok hw] at h
    have hfour : u.err ≠ 4 := fun h4 => by
      simpa using commandError_eq_some_cases ((exec_err_eq_errCode_iff h .illegalCommand).mp h4)
    have hone : u.err ≠ 1 := fun h1 =>
      commandError_ne_invalidAddress i s ((exec_err_eq_errCode_iff h .invalidAddress).mp h1)
    exact ⟨iff_of_false hfour fun hnone => hnone i rfl, hone⟩
  | error e =>
    obtain rfl := raise_next.mp (execWord_error hw s ▸ h)
    exact ⟨iff_of_true rfl nofun, by simp [errCode]⟩

/-- Settles O51: each code of a command is its check's error, and each check is a comparison. -/
theorem everyCommandEndsWithItsCode : Obligations.EveryCommandEndsWithItsCode :=
  ⟨fun _ _ _ h => exec_codes_of_maskCheck h rfl, fun _ _ _ h => exec_codes_of_maskCheck h rfl,
    fun _ _ h => exec_codes_of_maskCheck h rfl, fun _ _ h => (exec_err_eq_zero_iff h).mpr rfl,
    fun _ _ _ => exec_split_codes, fun _ _ => exec_next_codes,
    fun s _ w h => execWord_codes (s := setCmd w (setReply none s)) h⟩

end Sys2Proof.Machine
end

section
/-! PROOFS. Reset, and that every step completes (R95, R96, R104). -/

namespace Sys2Proof.Machine

/-- A step is idle (R93) or serves one event (R33), and every event completes. -/
theorem step_completes (s : State) : ∃ t, step s = .next t := by
  cases h : s.requests with
  | nil => exact ⟨s, step_idle h⟩
  | cons e es => exact ⟨transact e (setRequests es s), (step_serves h).trans (serve_eq_transact e _)⟩

/-- Settles O16: a failed check ends a command with a code and no stop (R84); events rest on commands, steps on events. -/
theorem everyStepCompletes : Obligations.EveryStepCompletes := ⟨step_completes, exec_completes, serve_eq_transact⟩

/-- R96: at reset `LAST` is 1, the only child being the last, and every other field of `STATUS` is 0. -/
theorem status_reset : status State.reset = 0x00000010 := by decide

theorem childCount_reset : childCount State.reset = 1 := by decide

/-- Settles O17: the registers are stored at their reset values; the two views are computed from them. -/
theorem resetRegisterValues : Obligations.ResetRegisterValues :=
  ⟨rfl, rfl, rfl, rfl, rfl, rfl, rfl, rfl, rfl, rfl, rfl, rfl, rfl, status_reset, childCount_reset⟩

/-- Settles O18: the step serves the reset, which keeps of the old state only the requests still to come. -/
theorem resetEventRestoresEveryRegister : Obligations.ResetEventRestoresEveryRegister := by
  intro s es h
  calc
    step s = serve .reset (setRequests es s) := step_serves h
    _ = .next (resetEngine (setRequests es s)) := serve_reset _
    _ = .next { State.reset with requests := es } := rfl

end Sys2Proof.Machine
end
